-- ==== Sys2Proof/Word.lean ====
section
/-! DEFINITION. The plain data the bus and the host hand over: bytes, channels, host calls, and the parts of an
encoded operation (operation word and the arguments beyond it). Spec: 00_scope.md R7, 20_memory.md R51,
30_encoding.md R73, R74, 44_tick_and_lines.md R215. -/

namespace Sys2Proof

/-- R7: every register value, bus value and frame byte is an unsigned 8-bit number. -/
abbrev Byte := BitVec 8

/-- R5 (`NCH`, `Config.nch`), R24: the two channels. -/
inductive Chan where
  | A
  | B
  deriving DecidableEq, Repr

/-- The channel that is not `c`. -/
def Chan.other : Chan → Chan
  | .A => .B
  | .B => .A

/-- R2, R215: the calls the host makes on the device. An address is the source's `unsigned`, of which only two
bits are decoded (R50, log 18). A delay is a mathematical integer (R7, R169). -/
inductive HostCall where
  /-- `write(address, value)` (R51, R100). -/
  | write (address : Nat) (v : Byte)
  /-- `read(address)` (R51, R130). -/
  | read (address : Nat)
  /-- `tick()` (R210). -/
  | tick
  /-- `setDCD(channel, asserted)` (R213). -/
  | setDCD (c : Chan) (asserted : Bool)
  /-- `receiveFrame(channel, bytes, length, wireDelay)` (R160). -/
  | receiveFrame (c : Chan) (bytes : List Byte) (length : Nat) (wireDelay : Int)
  /-- DESIGN CHOICE (log 5): a bare operation word in place of a call. It is no call of the source (R73: "The word
  is not hardware"); it is how a word that names no call (R77) reaches the step, which refuses it. -/
  | word (k : Byte)
  deriving DecidableEq, Repr

/-- R73, R74: the arguments of a call beyond its operation word. An operation reads only its own. -/
structure Args where
  /-- The written byte of a bus write. -/
  value : Byte
  /-- The level of `setDCD`. -/
  asserted : Bool
  /-- The byte sequence of `receiveFrame`. -/
  bytes : List Byte
  /-- The length of `receiveFrame`. -/
  length : Nat
  /-- The wire delay of `receiveFrame`, in ticks. -/
  delay : Int
  deriving DecidableEq, Repr

/-- Every argument zero, false or empty. -/
def Args.zero : Args := { value := 0, asserted := false, bytes := [], length := 0, delay := 0 }

/-- DESIGN CHOICE (log 4): the arguments that come with a bare operation word: a byte 0x00, a false level, and the least
frame R169 allows, one byte 0x00 after one tick. -/
def Args.least : Args := { value := 0, asserted := false, bytes := [0], length := 1, delay := 1 }

/-- Why an encoded operation has no meaning. -/
inductive DecodeError where
  /-- R77: the word names no host call. -/
  | invalidWord (k : Byte)
  /-- R160: the byte sequence of `receiveFrame` does not have the length given with it (log 25). -/
  | lengthMismatch
  /-- R73: a bare control-access word whose field `p` is not the pointer; no call has it in this state (log 5). -/
  | staleWord (k : Byte)
  deriving DecidableEq, Repr

end Sys2Proof
end

