-- ==== Sys2Proof/Config.lean ====
section
/-! DEFINITION. The implementation parameters of 00_scope.md: the constants of R5, the parameters of R6 (the OPEN
ones as opaque constants, so that no proof sees a value), and the free value of the tick order (R212). -/

namespace Sys2Proof.Config

/-! ### The constants of R5 (the source's literals, D47; log 8) -/

/-- `NCH`: channels, the two constructors of `Chan`. -/
abbrev nch : Nat := 2

/-- `NO_RXBUF`: receive slots per channel. -/
abbrev noRxbuf : Nat := 4

/-- `TRAILER_LEN`: synthesized bytes after each payload. -/
def trailerLen : Nat := 3

/-- `TX_BYTE_TICKS`: ticks added to the transmit countdown per data byte. -/
def txByteTicks : Int := 30

/-- `EOF_TICKS_PER_BYTE`: ticks of end-of-frame countdown per frame byte. -/
def eofTicksPerByte : Nat := 3

/-- `BROADCAST_ADDR`: the first-byte value every node accepts. -/
def broadcastAddr : Byte := 0xFF

/-- `DEFAULT_READ`: the value of a read of an unsupported register. -/
def defaultRead : Byte := 0xFF

/-- `NO_DATA_READ`: the value of a data read with no byte available. -/
def noDataRead : Byte := 0x00

/-- `PEND_WIDTH`: bits in the interrupt-pending vector. -/
abbrev pendWidth : Nat := 6

/-! ### The OPEN parameters of R6: any value of the stated type -/

/-- How far `P_RX_SLOT_BYTES` lies above its least value. -/
opaque rxSlotSpare : Nat

/-- `P_RX_SLOT_BYTES`, natural ≥ 4, OPEN (R6, D30; log 9). -/
def rxSlotBytes : Nat := rxSlotSpare + 4

/-- How far `P_TX_BUF_BYTES` lies above its least value. -/
opaque txBufSpare : Nat

/-- `P_TX_BUF_BYTES`, natural ≥ 1, OPEN (R6, D30; log 10). -/
def txBufBytes : Nat := txBufSpare + 1

/-- `P_CRC_FILL`, a pair of bytes, OPEN (R6, R161, D31; log 11). -/
opaque crcFill : Byte × Byte

/-- `P_RR1_FIXED`, a byte, OPEN (R6, R132, D27; log 12). -/
opaque rr1Fixed : Byte

/-- `P_RR0_ABORT_WHEN_EMPTY`, a bit, OPEN (R6, R131, D26; log 13). -/
opaque rr0AbortWhenEmpty : Bool

/-- `P_FLUSH_EMPTY`, OPEN (R6, R191, D10; log 14). -/
opaque flushEmpty : Bool

/-- The values of `P_TICK_ORDER` (R6, R212). -/
inductive TickOrder where
  | AB
  | BA
  | any
  deriving DecidableEq, Repr, Inhabited

/-- `P_TICK_ORDER`, OPEN (R6, R212, D32; log 15). -/
opaque tickOrder : TickOrder

/-- The free value of `P_TICK_ORDER = any`: does the n-th tick run channel A first? Nothing constrains it (R11, R212;
log 15). -/
opaque tickChoice : Nat → Bool

/-! ### The decided parameters of R6 -/

/-- `P_TX_IDLE_BASE`, decided 0 (R6, R190, D8; log 16). -/
def txIdleBase : Int := 0

/-- `P_ACK_BRX_QUIRK`, decided false (R6, R241, D24, C5; log 17). -/
def ackBrxQuirk : Bool := false

end Sys2Proof.Config
end

