-- ==== Sys2Proof/Syntax.lean ====
section
/-! DEFINITION. The operations of spec/opcode_table.json, one constructor per row, in the table's order. An operation
is one host call with the register its word selects (30_encoding.md R73 to R76). -/

namespace Sys2Proof

/-- One host call, as the operation its word names (R73). `c` is the addressed channel, `v` the written byte. -/
inductive Instr where
  /-- R101: WR0, command. -/
  | wr0 (c : Chan) (v : Byte)
  /-- R102: WR1, interrupt enable and receive mode. -/
  | wr1 (c : Chan) (v : Byte)
  /-- R103: WR2, interrupt vector base (chip-wide). -/
  | wr2 (c : Chan) (v : Byte)
  /-- R104: WR3, receive control (bit 4 enters hunting). -/
  | wr3 (c : Chan) (v : Byte)
  /-- R106: WR4, no effect. -/
  | wr4 (c : Chan) (v : Byte)
  /-- R107: WR5, no effect. -/
  | wr5 (c : Chan) (v : Byte)
  /-- R108: WR6, SDLC address. -/
  | wr6 (c : Chan) (v : Byte)
  /-- R109: WR7, no effect. -/
  | wr7 (c : Chan) (v : Byte)
  /-- R110: WR8_CTL, transmit data through the control path. -/
  | wr8Ctl (c : Chan) (v : Byte)
  /-- R111: WR9, master interrupt control (chip-wide). -/
  | wr9 (c : Chan) (v : Byte)
  /-- R112: WR10, no effect. -/
  | wr10 (c : Chan) (v : Byte)
  /-- R113: WR11, no effect. -/
  | wr11 (c : Chan) (v : Byte)
  /-- R114: WR12, no effect. -/
  | wr12 (c : Chan) (v : Byte)
  /-- R115: WR13, no effect. -/
  | wr13 (c : Chan) (v : Byte)
  /-- R116: WR14, no effect. -/
  | wr14 (c : Chan) (v : Byte)
  /-- R117: WR15, external/status enables, then IntRaise. -/
  | wr15 (c : Chan) (v : Byte)
  /-- R110: data write; `p` is the pointer at the access, ignored. -/
  | wr8Data (c : Chan) (p : BitVec 4) (v : Byte)
  /-- R131: RR0, transmit/receive buffer and external status. -/
  | rr0 (c : Chan)
  /-- R132: RR1, special receive condition status. -/
  | rr1 (c : Chan)
  /-- R138: RR4, default 0xFF. -/
  | rr4 (c : Chan)
  /-- R139: RR5, default 0xFF. -/
  | rr5 (c : Chan)
  /-- R140: RR6, default 0xFF. -/
  | rr6 (c : Chan)
  /-- R141: RR7, default 0xFF. -/
  | rr7 (c : Chan)
  /-- R142: RR8_CTL, receive data through the control path. -/
  | rr8Ctl (c : Chan)
  /-- R143: RR9, default 0xFF. -/
  | rr9 (c : Chan)
  /-- R144: RR10, miscellaneous SDLC status. -/
  | rr10 (c : Chan)
  /-- R145: RR11, default 0xFF. -/
  | rr11 (c : Chan)
  /-- R146: RR12, default 0xFF. -/
  | rr12 (c : Chan)
  /-- R147: RR13, default 0xFF. -/
  | rr13 (c : Chan)
  /-- R148: RR14, default 0xFF. -/
  | rr14 (c : Chan)
  /-- R149: RR15, read-back of WR15. -/
  | rr15 (c : Chan)
  /-- R133: RR2B, vector read with acknowledge. -/
  | rr2B
  /-- R134: RR2A, default 0xFF. -/
  | rr2A
  /-- R136: RR3B, always 0x00. -/
  | rr3B
  /-- R135: RR3A, pending vector. -/
  | rr3A
  /-- R142: data read; `p` is the pointer at the access, ignored. -/
  | rr8Data (c : Chan) (p : BitVec 4)
  /-- R210: TICK, `tick()`. -/
  | tick
  /-- R213: SETDCD, `setDCD(c, asserted)`. -/
  | setDcd (c : Chan) (asserted : Bool)
  /-- R160: RXFRAME, `receiveFrame(c, bytes, n, d)`. -/
  | rxFrame (c : Chan) (bytes : List Byte) (n : Nat) (d : Int)
  deriving DecidableEq, Repr

end Sys2Proof
end

