-- ==== Sys2Proof/WellFormed.lean ====
section
/-! DEFINITION. Which operations are well formed. The types carry every other bound (a channel is A or B, a value a byte,
a pointer four bits); the one check is that a frame has the length given with it (42_receive_path.md R160). -/

namespace Sys2Proof

/-- R160: `receiveFrame` takes "a byte sequence `bytes` with `len(bytes) = n`" (log 25). -/
def Instr.wellFormed : Instr → Bool
  | .wr0 _ _ => true
  | .wr1 _ _ => true
  | .wr2 _ _ => true
  | .wr3 _ _ => true
  | .wr4 _ _ => true
  | .wr5 _ _ => true
  | .wr6 _ _ => true
  | .wr7 _ _ => true
  | .wr8Ctl _ _ => true
  | .wr9 _ _ => true
  | .wr10 _ _ => true
  | .wr11 _ _ => true
  | .wr12 _ _ => true
  | .wr13 _ _ => true
  | .wr14 _ _ => true
  | .wr15 _ _ => true
  | .wr8Data _ _ _ => true
  | .rr0 _ => true
  | .rr1 _ => true
  | .rr4 _ => true
  | .rr5 _ => true
  | .rr6 _ => true
  | .rr7 _ => true
  | .rr8Ctl _ => true
  | .rr9 _ => true
  | .rr10 _ => true
  | .rr11 _ => true
  | .rr12 _ => true
  | .rr13 _ => true
  | .rr14 _ => true
  | .rr15 _ => true
  | .rr2B => true
  | .rr2A => true
  | .rr3B => true
  | .rr3A => true
  | .rr8Data _ _ => true
  | .tick => true
  | .setDcd _ _ => true
  | .rxFrame _ bytes n _ => bytes.length == n

end Sys2Proof
end

