-- ==== Sys2Proof/Decode.lean ====
section
/-! DEFINITION. Decoding: the register a bus access selects (30_encoding.md R70), the operation word of a host call and
its fields (R73, R74), the decoder of words, total and refusing invalid ones by name (R77), and the encoder. -/

namespace Sys2Proof

/-! ### Fields of the operation word (R73) -/

/-- R73: the class field, bits 7:6. -/
inductive OpClass where
  | busRead
  | busWrite
  | host
  | reserved
  deriving DecidableEq, Repr

/-- R73: 0b00 bus read, 0b01 bus write, 0b10 host operation, 0b11 reserved. -/
def OpClass.bits : OpClass → BitVec 2
  | .busRead => 0b00
  | .busWrite => 0b01
  | .host => 0b10
  | .reserved => 0b11

/-- R73: the class of bits 7:6. -/
def opClass (k : Byte) : OpClass :=
  match (k.extractLsb' 6 2).toNat with
  | 0 => .busRead
  | 1 => .busWrite
  | 2 => .host
  | _ => .reserved

/-- R50, R73: the channel bit, 1 = A. -/
def Chan.bit : Chan → Bool
  | .A => true
  | .B => false

/-- R50, R73: 1 = A, 0 = B. -/
def Chan.ofBit (b : Bool) : Chan := if b then .A else .B

/-- R73: bit 5, data access. -/
def opData (k : Byte) : Bool := k.getLsbD 5

/-- R73: bit 4, channel. -/
def opChan (k : Byte) : Chan := Chan.ofBit (k.getLsbD 4)

/-- R73: bits 3:0, the pointer or the host-operation number. -/
def opPtr (k : Byte) : BitVec 4 := k.extractLsb' 0 4

/-- R73: the word `cls d c p`, most significant field first. -/
def opWord (cls : OpClass) (d : Bool) (c : Chan) (p : BitVec 4) : Byte :=
  cls.bits ++ BitVec.ofBool d ++ BitVec.ofBool c.bit ++ p

/-! ### The register maps -/

/-- R75: the write map, by index. -/
def writeMap (c : Chan) (index : BitVec 4) (v : Byte) : Instr :=
  match index.toNat with
  | 0 => .wr0 c v
  | 1 => .wr1 c v
  | 2 => .wr2 c v
  | 3 => .wr3 c v
  | 4 => .wr4 c v
  | 5 => .wr5 c v
  | 6 => .wr6 c v
  | 7 => .wr7 c v
  | 8 => .wr8Ctl c v
  | 9 => .wr9 c v
  | 10 => .wr10 c v
  | 11 => .wr11 c v
  | 12 => .wr12 c v
  | 13 => .wr13 c v
  | 14 => .wr14 c v
  | _ => .wr15 c v

/-- R76: the read map, by index. -/
def readMap (c : Chan) (index : BitVec 4) : Instr :=
  match index.toNat with
  | 0 => .rr0 c
  | 1 => .rr1 c
  | 2 => match c with | .A => .rr2A | .B => .rr2B
  | 3 => match c with | .A => .rr3A | .B => .rr3B
  | 4 => .rr4 c
  | 5 => .rr5 c
  | 6 => .rr6 c
  | 7 => .rr7 c
  | 8 => .rr8Ctl c
  | 9 => .rr9 c
  | 10 => .rr10 c
  | 11 => .rr11 c
  | 12 => .rr12 c
  | 13 => .rr13 c
  | 14 => .rr14 c
  | _ => .rr15 c

/-- R74, R77: the host operations, by number; every other host word is invalid. -/
def hostMap (k : Byte) (a : Args) : Except DecodeError Instr :=
  if opData k then .error (.invalidWord k)
  else match (opPtr k).toNat with
    | 0 => if opChan k = .B then .ok .tick else .error (.invalidWord k)
    | 1 => .ok (.setDcd (opChan k) a.asserted)
    | 2 =>
      if a.bytes.length = a.length then .ok (.rxFrame (opChan k) a.bytes a.length a.delay)
      else .error .lengthMismatch
    | _ => .error (.invalidWord k)

/-- R73, R77: the decoder of operation words, total. A data access has index 8 whatever `p` is (R70). -/
def decode (k : Byte) (a : Args) : Except DecodeError Instr :=
  match opClass k with
  | .busRead => .ok (if opData k then .rr8Data (opChan k) (opPtr k) else readMap (opChan k) (opPtr k))
  | .busWrite =>
    .ok (if opData k then .wr8Data (opChan k) (opPtr k) a.value else writeMap (opChan k) (opPtr k) a.value)
  | .host => hostMap k a
  | .reserved => .error (.invalidWord k)

/-! ### Host calls (R70, R73, R74) -/

/-- R50, R70: address bit 1 selects the channel, set = A. -/
def addrChan (address : Nat) : Chan := Chan.ofBit (address.testBit 1)

/-- R50, R70: address bit 2 set means a data access (D1; log 18). -/
def addrData (address : Nat) : Bool := address.testBit 2

/-- R73, R74: the operation word of a call, from the call and the pointer before it. -/
def callWord (ptr : BitVec 4) : HostCall → Byte
  | .write address _ => opWord .busWrite (addrData address) (addrChan address) ptr
  | .read address => opWord .busRead (addrData address) (addrChan address) ptr
  | .tick => opWord .host false .B 0
  | .setDCD c _ => opWord .host false c 1
  | .receiveFrame c _ _ _ => opWord .host false c 2
  | .word k => k

/-- The arguments of a bus write. -/
def Args.ofValue (v : Byte) : Args := { Args.zero with value := v }

/-- R74: the arguments of a call beyond its word. -/
def callArgs : HostCall → Args
  | .write _ v => Args.ofValue v
  | .read _ => Args.zero
  | .tick => Args.zero
  | .setDCD _ asserted => { Args.zero with asserted := asserted }
  | .receiveFrame _ bytes n d => { Args.zero with bytes := bytes, length := n, delay := d }
  | .word _ => Args.least

/-- Is `k` the word of a control access made at another pointer than `ptr`? -/
def wordIsStale (ptr : BitVec 4) (k : Byte) : Bool :=
  (opClass k == .busRead || opClass k == .busWrite) && !opData k && opPtr k != ptr

/-- R70, R73: the operation a call names when the pointer is `ptr`. A bare word names one only if some call could have
it now (log 5). -/
def decodeCall (ptr : BitVec 4) : HostCall → Except DecodeError Instr
  | .word k => if wordIsStale ptr k then .error (.staleWord k) else decode k Args.least
  | call => decode (callWord ptr call) (callArgs call)

/-! ### The encoder -/

/-- R73, R74, and the table's rows: the operation word of an operation, and its arguments. -/
def encode : Instr → Byte × Args
  | .wr0 c v => (opWord .busWrite false c 0, Args.ofValue v)
  | .wr1 c v => (opWord .busWrite false c 1, Args.ofValue v)
  | .wr2 c v => (opWord .busWrite false c 2, Args.ofValue v)
  | .wr3 c v => (opWord .busWrite false c 3, Args.ofValue v)
  | .wr4 c v => (opWord .busWrite false c 4, Args.ofValue v)
  | .wr5 c v => (opWord .busWrite false c 5, Args.ofValue v)
  | .wr6 c v => (opWord .busWrite false c 6, Args.ofValue v)
  | .wr7 c v => (opWord .busWrite false c 7, Args.ofValue v)
  | .wr8Ctl c v => (opWord .busWrite false c 8, Args.ofValue v)
  | .wr9 c v => (opWord .busWrite false c 9, Args.ofValue v)
  | .wr10 c v => (opWord .busWrite false c 10, Args.ofValue v)
  | .wr11 c v => (opWord .busWrite false c 11, Args.ofValue v)
  | .wr12 c v => (opWord .busWrite false c 12, Args.ofValue v)
  | .wr13 c v => (opWord .busWrite false c 13, Args.ofValue v)
  | .wr14 c v => (opWord .busWrite false c 14, Args.ofValue v)
  | .wr15 c v => (opWord .busWrite false c 15, Args.ofValue v)
  | .wr8Data c p v => (opWord .busWrite true c p, Args.ofValue v)
  | .rr0 c => (opWord .busRead false c 0, Args.zero)
  | .rr1 c => (opWord .busRead false c 1, Args.zero)
  | .rr4 c => (opWord .busRead false c 4, Args.zero)
  | .rr5 c => (opWord .busRead false c 5, Args.zero)
  | .rr6 c => (opWord .busRead false c 6, Args.zero)
  | .rr7 c => (opWord .busRead false c 7, Args.zero)
  | .rr8Ctl c => (opWord .busRead false c 8, Args.zero)
  | .rr9 c => (opWord .busRead false c 9, Args.zero)
  | .rr10 c => (opWord .busRead false c 10, Args.zero)
  | .rr11 c => (opWord .busRead false c 11, Args.zero)
  | .rr12 c => (opWord .busRead false c 12, Args.zero)
  | .rr13 c => (opWord .busRead false c 13, Args.zero)
  | .rr14 c => (opWord .busRead false c 14, Args.zero)
  | .rr15 c => (opWord .busRead false c 15, Args.zero)
  | .rr2B => (opWord .busRead false .B 2, Args.zero)
  | .rr2A => (opWord .busRead false .A 2, Args.zero)
  | .rr3B => (opWord .busRead false .B 3, Args.zero)
  | .rr3A => (opWord .busRead false .A 3, Args.zero)
  | .rr8Data c p => (opWord .busRead true c p, Args.zero)
  | .tick => (opWord .host false .B 0, Args.zero)
  | .setDcd c asserted => (opWord .host false c 1, { Args.zero with asserted := asserted })
  | .rxFrame c bytes n d => (opWord .host false c 2, { Args.zero with bytes := bytes, length := n, delay := d })

/-! ### Words of the opcode table -/

/-- The operation read from the table word `w` of `nbits` bits, with the least arguments (log 4). -/
def decodeTableWord (nbits w : Nat) : Option Instr :=
  if nbits ≤ 8 ∧ w < 256 then (decode (BitVec.ofNat 8 w) Args.least).toOption else none

/-- R50: the example offset of a bus location: 0, 2, 4, 6. -/
def busOffset (d : Bool) (c : Chan) : Nat := (if d then 4 else 0) + (if c = .A then 2 else 0)

/-- The host call whose word is `k`, with the least arguments (log 4); an invalid word stays a bare word (R77). -/
def callOfWord (k : Byte) : HostCall :=
  match opClass k with
  | .busRead => .read (busOffset (opData k) (opChan k))
  | .busWrite => .write (busOffset (opData k) (opChan k)) 0
  | .host =>
    match decode k Args.least with
    | .ok (.tick) => .tick
    | .ok (.setDcd c asserted) => .setDCD c asserted
    | .ok (.rxFrame c bytes n d) => .receiveFrame c bytes n d
    | _ => .word k
  | .reserved => .word k

/-- The pointer at which a call has the word `k`: field `p` of a bus word; a host word needs none. -/
def ptrOfWord (ptr : BitVec 4) (k : Byte) : BitVec 4 :=
  match opClass k with
  | .busRead => opPtr k
  | .busWrite => opPtr k
  | .host => ptr
  | .reserved => ptr

end Sys2Proof
end

