-- ==== Sys2Proof/Machine/State.lean ====
section
/-! DEFINITION. The state of the device (10_state.md R23 to R25, R43), the model's own fields beside it, the reasons a
step can stop, and the initial state (70_reset_and_hazards.md R270). -/

namespace Sys2Proof.Machine

/-- R43: the output events. -/
inductive Event where
  /-- R234, R235: the host interrupt line is asserted. -/
  | assertInterrupt
  /-- R191: a frame goes to the transport. The tag `c` is the model's; the host does not see it (D33; log 3). -/
  | sendFrame (bytes : List Byte) (c : Chan)
  /-- R162: a frame was dropped, the queue being full. The model's record; the host gets no signal (D34; log 3). -/
  | rxDropped (c : Chan)
  deriving DecidableEq, Repr

/-- R25: a receive slot. -/
structure Slot where
  /-- Arrival countdown: −1 free, 0 ready, > 0 counting down. -/
  cd : Int
  /-- Payload length plus the trailer. -/
  len : Nat
  /-- Payload and trailer. -/
  data : List Byte
  deriving DecidableEq, Repr

/-- R270: a free slot, with the length and bytes of the initial state. -/
def Slot.empty : Slot := { cd := -1, len := 0, data := [] }

/-- R24: a channel. -/
structure Channel where
  /-- R35: Data-Carrier-Detect line state. -/
  dcd : Bool
  /-- R36: Clear-To-Send line state. -/
  cts : Bool
  /-- R31: WR1. -/
  wr1 : Byte
  /-- R32: WR15. -/
  wr15 : Byte
  /-- R33: configured SDLC address. -/
  sdlcAddr : Byte
  /-- R34: not synchronized to a frame boundary. -/
  hunting : Bool
  /-- R37: transmit underrun countdown, −1 idle. -/
  txCd : Int
  /-- R38: transmit buffer; its length is the write cursor. -/
  txBuf : List Byte
  /-- R25: the receive slots. -/
  slots : Vector Slot Config.noRxbuf
  /-- R39: the cursor selecting the active slot. -/
  rxCur : Fin Config.noRxbuf
  /-- R41: read cursor into the active slot. -/
  rdPtr : Nat
  /-- R42: end-of-frame countdown, 0 inactive. -/
  eofCd : Nat
  /-- R44: set when the end-of-frame countdown fires; no rule reads it (log 40). -/
  eofPending : Bool
  deriving DecidableEq, Repr

/-- R23: the chip, and beside it the model's own fields `calls`, `returned` and `ticks`. -/
structure State where
  /-- R26: register pointer. -/
  ptr : BitVec 4
  /-- R27: interrupt-pending vector. -/
  pending : BitVec Config.pendWidth
  /-- R28: its diagnostic shadow; no rule reads it (log 39). -/
  pendingShadow : BitVec Config.pendWidth
  /-- R29: WR2. -/
  wr2 : Byte
  /-- R30: WR9. -/
  wr9 : Byte
  /-- Channel A. -/
  chA : Channel
  /-- Channel B. -/
  chB : Channel
  /-- R43: the output events, oldest first (log 3). -/
  trace : List Event
  /-- DESIGN CHOICE (log 1): the host calls made and not yet taken, oldest first. -/
  calls : List HostCall
  /-- DESIGN CHOICE (log 2): what the last host call handed back (R10, R215). -/
  returned : Option Byte
  /-- DESIGN CHOICE (log 15): the ticks taken, which select the free value of `P_TICK_ORDER = any`. -/
  ticks : Nat
  deriving DecidableEq, Repr

/-- The device never faults (R10, R230): there is no fault reason. Nothing raises one (log 7, safe). -/
inductive Fault where
  deriving DecidableEq, Repr

/-- Why the model gives a call no meaning (R9 `Refuse`, R10). A refusal ends the run. -/
inductive Refusal where
  /-- An operation with no meaning yet. Raised by `exec`'s refused arms only, of which none is left. Safe. -/
  | notModelled (mnemonic : String)
  /-- R190: a WR8 write (`execWr8Ctl`, `execWr8Data`) with the transmit buffer full. Safe. -/
  | txBufferFull
  /-- R160, R169: `execRxFrame` on a frame that breaks a host duty. Safe. -/
  | hostFrameContract
  /-- R77: `step` on a call that names no operation. Safe. -/
  | undecodable (e : DecodeError)
  deriving DecidableEq, Repr

/-- R270: a channel after initialization. -/
def Channel.reset : Channel :=
  { dcd := true, cts := false, wr1 := 0x00, wr15 := 0x00, sdlcAddr := 0x00, hunting := false, txCd := -1, txBuf := [],
    slots := Vector.replicate Config.noRxbuf Slot.empty, rxCur := 0, rdPtr := 0, eofCd := 0, eofPending := false }

/-- R270: the device after initialization; no call waiting (log 1, log 2, log 15, log 37). -/
def State.reset : State :=
  { ptr := 0, pending := 0, pendingShadow := 0, wr2 := 0x00, wr9 := 0x00, chA := Channel.reset, chB := Channel.reset,
    trace := [], calls := [], returned := none, ticks := 0 }

end Sys2Proof.Machine
end

