-- ==== Sys2Proof/Machine/Operands.lean ====
section
/-! DEFINITION. The fields of the command and stored registers: WR0 (30_encoding.md R78), WR1 (10_state.md R31), WR3
(R79), WR9 (R30), WR15 (R32). -/

namespace Sys2Proof.Machine

/-! ### WR0 (R78) -/

/-- R78: bits 2:0, the low bits of the next pointer. -/
def wr0Reg (v : Byte) : BitVec 3 := v.extractLsb' 0 3

/-- R78: bits 5:3, the command. -/
def wr0Cmd (v : Byte) : BitVec 3 := v.extractLsb' 3 3

/-- R78: bits 7:6, the CRC field. -/
def wr0Crc (v : Byte) : BitVec 2 := v.extractLsb' 6 2

/-- R78, R101: the pointer a WR0 byte selects: 8 + `reg` after point high, else `reg`. -/
def wr0Ptr (v : Byte) : BitVec 4 :=
  if wr0Cmd v = 0b001 then 8 + (wr0Reg v).setWidth 4 else (wr0Reg v).setWidth 4

/-! ### WR1 (R31, D17; log 29) -/

/-- R31: bit 0, the gate of `IntRaise`. -/
def wr1Gate (wr1 : Byte) : Bool := wr1.getLsbD 0

/-- R31: bits 4:3, the receive-interrupt mode. -/
def rxMode (wr1 : Byte) : BitVec 2 := wr1.extractLsb' 3 2

/-- R31: interrupt on first character or on all characters. -/
def firstOrAll (wr1 : Byte) : Bool := rxMode wr1 == 0b01 || rxMode wr1 == 0b10

/-- R31: interrupt on all characters. -/
def allChars (wr1 : Byte) : Bool := rxMode wr1 == 0b10

/-- R31: the mode includes special-condition signaling. -/
def specialCond (wr1 : Byte) : Bool := rxMode wr1 == 0b01 || rxMode wr1 == 0b10 || rxMode wr1 == 0b11

/-! ### WR3, WR9, WR15 -/

/-- R79, R104: bit 4 of a WR3 byte forces hunting. -/
def wr3Hunt (v : Byte) : Bool := v.getLsbD 4

/-- R30: bit 4 of WR9, the hi/lo vector-placement flag (D19; log 31). -/
def wr9High (wr9 : Byte) : Bool := wr9.getLsbD 4

/-- R32: DCD change enable (D18; log 30). -/
def dcdEnabled (wr15 : Byte) : Bool := wr15.getLsbD 3

/-- R32: sync/hunt enable (D18; log 30). -/
def syncEnabled (wr15 : Byte) : Bool := wr15.getLsbD 4

/-- R32: break/abort enable (D18; log 30). -/
def breakEnabled (wr15 : Byte) : Bool := wr15.getLsbD 7

end Sys2Proof.Machine
end

