-- ==== Sys2Proof/Machine/Flags.lean ====
section
/-! DEFINITION. The pending-cause bits (10_state.md R27), the derived receive quantities (R40), and the status bytes
computed on a read: RR0 (41_register_reads.md R131) and RR1 (R132). -/

namespace Sys2Proof.Machine

/-! ### Pending causes (R27, D20; log 32) -/

/-- R27: `EXT(c)`. -/
def extBit : Chan → BitVec Config.pendWidth
  | .A => 0b001000
  | .B => 0b000001

/-- R27: `RX(c)`. -/
def rxBit : Chan → BitVec Config.pendWidth
  | .A => 0b100000
  | .B => 0b000100

/-- R27, R243: `TX(c)`, which nothing sets. -/
def txBit : Chan → BitVec Config.pendWidth
  | .A => 0b010000
  | .B => 0b000010

/-- R27: `BITS(c)`. -/
def chanBits : Chan → BitVec Config.pendWidth
  | .A => 0b111000
  | .B => 0b000111

/-! ### Receive quantities (R39, R40) -/

/-- R8, R39: `act(c)`, the slot at the cursor. -/
def Channel.act (k : Channel) : Slot := k.slots[k.rxCur]

/-- R40: the active slot is ready. -/
def Channel.activeReady (k : Channel) : Bool := k.act.cd == 0

/-- R40: the bytes of the active slot not yet popped. -/
def Channel.unread (k : Channel) : Nat := if k.activeReady then k.act.len - k.rdPtr else 0

/-! ### Status bytes -/

/-- R131: RR0. -/
def rr0Value (k : Channel) : Byte :=
  BitVec.ofBool (if k.activeReady then decide (k.unread ≤ 2) else Config.rr0AbortWhenEmpty)
    ++ BitVec.ofBool (decide (k.txCd = -1)) ++ BitVec.ofBool k.cts ++ BitVec.ofBool k.hunting ++ BitVec.ofBool k.dcd
    ++ BitVec.ofBool true ++ BitVec.ofBool false ++ BitVec.ofBool (decide (0 < k.unread))

/-- R132: RR1. -/
def rr1Value (k : Channel) : Byte := if k.unread = 1 then Config.rr1Fixed ||| 0x80 else Config.rr1Fixed

end Sys2Proof.Machine
end

