-- ==== Sys2Proof/Machine/Ops.lean ====
section
/-! DEFINITION. The shared operations: channel access, the register pointer (30_encoding.md R71), the byte a read
returns (R10), events (10_state.md R43), and the interrupt controller's raise (60_exceptions.md R234). The device takes
no exception and returns from none (R230, R245, R246): the raise is all it does toward the CPU. -/

namespace Sys2Proof.Machine

/-! ### Channels -/

/-- R8: `ch(c)`. -/
def State.ch (s : State) : Chan → Channel
  | .A => s.chA
  | .B => s.chB

/-- R8: replaces `ch(c)`. -/
def State.setCh (s : State) (c : Chan) (k : Channel) : State :=
  match c with
  | .A => { s with chA := k }
  | .B => { s with chB := k }

/-! ### The bus -/

/-- R71, R100, R130: a control access sets the pointer to 0 before its side effects (D4; log 19). -/
def State.consumePtr (s : State) : State := { s with ptr := 0 }

/-- R9, R10: `return v`. -/
def State.returnByte (v : Byte) (s : State) : State := { s with returned := some v }

/-! ### Events and interrupts -/

/-- R9, R43: `emit E`. -/
def State.emit (e : Event) (s : State) : State := { s with trace := s.trace ++ [e] }

/-- R234: `IntRaise(c)` (D22, C9; log 34). It writes no state. -/
def intRaise (c : Chan) (s : State) : State :=
  if wr1Gate (s.ch c).wr1 = true ∧ s.pending ≠ 0 then s.emit .assertInterrupt else s

/-- R236: sets the pending bits `bits`, then at once `IntRaise(c)`. -/
def raiseCause (bits : BitVec Config.pendWidth) (c : Chan) (s : State) : State :=
  intRaise c { s with pending := s.pending ||| bits }

end Sys2Proof.Machine
end

