-- ==== Sys2Proof/Machine/Receive.lean ====
section
/-! DEFINITION. The receive path: arrival, framing check, end of frame, and the data read (42_receive_path.md R160 to
R169, 41_register_reads.md R142). -/

namespace Sys2Proof.Machine

/-! ### The ring of slots -/

/-- R39: the slot index `j` places after the cursor, modulo NO_RXBUF. -/
def ringIdx (cur : Fin Config.noRxbuf) (j : Nat) : Fin Config.noRxbuf :=
  ⟨(cur.val + j) % Config.noRxbuf, Nat.mod_lt _ (by decide)⟩

/-- The slot `j` places after the cursor. -/
def Channel.ringSlot (k : Channel) (j : Nat) : Slot := k.slots[ringIdx k.rxCur j]

/-- Replaces the active slot. -/
def Channel.setAct (k : Channel) (x : Slot) : Channel := { k with slots := k.slots.set k.rxCur x }

/-- R166: `ReleaseActive(c)` (D14; log 27). -/
def Channel.releaseActive (k : Channel) : Channel :=
  { k.setAct { k.act with cd := -1 } with rxCur := ringIdx k.rxCur 1, rdPtr := 0 }

/-! ### Arrival (R160 to R162, R169) -/

/-- R161: a payload and its three synthesized bytes (D31; log 11). -/
def frameData (bytes : List Byte) : List Byte := bytes ++ [Config.crcFill.1, Config.crcFill.2, 0x00]

/-- R160, R169: the host's duties for a frame (D12, D30; log 25). -/
def frameDuty (bytes : List Byte) (n : Nat) (d : Int) : Bool :=
  decide (1 ≤ n) && decide (1 ≤ d) && (bytes.length == n) && decide (n + Config.trailerLen ≤ Config.rxSlotBytes)

/-- R160: the first free slot, scanning from the cursor (D13; log 26). -/
def Channel.firstFree (k : Channel) : Option (Fin Config.noRxbuf) :=
  ((List.range Config.noRxbuf).map (ringIdx k.rxCur)).find? fun i => decide (k.slots[i].cd = -1)

/-- R160, R162: stores the frame in the first free slot, or drops it. -/
def enqueueFrame (c : Chan) (bytes : List Byte) (n : Nat) (d : Int) (s : State) : State :=
  let k := s.ch c
  match k.firstFree with
  | some i =>
    s.setCh c { k with slots := k.slots.set i { cd := d, len := n + Config.trailerLen, data := frameData bytes } }
  | none => s.emit (.rxDropped c)

/-! ### Framing (R163 to R165) -/

/-- R164: does the active frame's first byte carry the broadcast address or the channel's own? A slot with no byte, which
no run reaches, does not match (log 47). -/
def Channel.frameMatches (k : Channel) : Bool :=
  match k.act.data with
  | [] => false
  | b :: _ => b == Config.broadcastAddr || b == k.sdlcAddr

/-- R164: the match case. -/
def frameAccept (c : Chan) (s : State) : State :=
  let s := s.setCh c { s.ch c with rdPtr := 0 }
  let s := if syncEnabled (s.ch c).wr15 = true then raiseCause (extBit c) c s else s
  let s := if firstOrAll (s.ch c).wr1 = true then raiseCause (rxBit c) c s else s
  s.setCh c { s.ch c with hunting := false, eofCd := Config.eofTicksPerByte * (s.ch c).act.len }

/-- R165: the mismatch case. -/
def frameReject (c : Chan) (s : State) : State :=
  s.setCh c { (s.ch c).releaseActive with hunting := true }

/-- R164, R165: `FramingCheck(c)`, whatever `hunting` holds (D42; log 42). -/
def framingCheck (c : Chan) (s : State) : State :=
  if (s.ch c).frameMatches = true then frameAccept c s else frameReject c s

/-- R163: the active slot one tick nearer. -/
def Channel.countedDown (k : Channel) : Channel := k.setAct { k.act with cd := k.act.cd - 1 }

/-- R163: `RxTickStep(c)`: only the active slot counts down (C2, D11; log 24). -/
def rxTickStep (c : Chan) (s : State) : State :=
  let k := s.ch c
  if 0 < k.act.cd then
    let s := s.setCh c k.countedDown
    if k.act.cd - 1 = 0 then framingCheck c s else s
  else s

/-! ### End of frame (R167, R168) -/

/-- R168: `EofFire(c)`. -/
def eofFire (c : Chan) (s : State) : State :=
  let s := s.setCh c { s.ch c with eofPending := true }
  if specialCond (s.ch c).wr1 = true then raiseCause (rxBit c) c s else s

/-- R167: `EofTickStep(c)`; the EXT cause is set on every active tick, whatever WR15 holds (C6, D16; log 28). -/
def eofTickStep (c : Chan) (s : State) : State :=
  let k := s.ch c
  if 0 < k.eofCd then
    let s := s.setCh c { k with eofCd := k.eofCd - 1 }
    let s := if k.eofCd - 1 = 0 then eofFire c s else s
    raiseCause (extBit c) c s
  else s

/-! ### The data read (R142) -/

/-- R142: the byte at the read cursor. Past the slot's bytes, where no run reads, `NO_DATA_READ` (log 47). -/
def Channel.nextByte (k : Channel) : Byte := k.act.data.getD k.rdPtr Config.noDataRead

/-- R142: after a byte that is not the last. -/
def popInner (c : Chan) (s : State) : State :=
  if allChars (s.ch c).wr1 = true then raiseCause (rxBit c) c s else s

/-- R142: after the last byte. -/
def popLast (c : Chan) (s : State) : State :=
  let s := s.setCh c { s.ch c with hunting := true }
  let s := if breakEnabled (s.ch c).wr15 = true then raiseCause (extBit c) c s else s
  s.setCh c (s.ch c).releaseActive

/-- R142: `RR[8](c)`. -/
def dataRead (c : Chan) (s : State) : State :=
  let k := s.ch c
  if k.unread = 0 then s.returnByte Config.noDataRead
  else
    let s := s.setCh c { k with rdPtr := k.rdPtr + 1 }
    let s := if k.rdPtr + 1 < k.act.len then popInner c s else popLast c s
    s.returnByte k.nextByte

end Sys2Proof.Machine
end

