-- ==== Sys2Proof/Machine/Transmit.lean ====
section
/-! DEFINITION. The transmit path: append, flush, tick step (43_transmit_path.md R190 to R194). -/

namespace Sys2Proof.Machine

/-- R190: the channel after a byte is appended; `base` is P_TX_IDLE_BASE (D8; log 16). -/
def Channel.txPush (k : Channel) (base : Int) (v : Byte) : Channel :=
  { k with txBuf := k.txBuf ++ [v], txCd := (if k.txCd < 0 then base else k.txCd) + Config.txByteTicks }

/-- R190: `TxAppend(c, v)`, refused when the buffer is full (D30; log 10). -/
def txAppend (c : Chan) (v : Byte) (s : State) : Host.Outcome State Fault Refusal :=
  if (s.ch c).txBuf.length = Config.txBufBytes then .refused .txBufferFull
  else .next (s.setCh c ((s.ch c).txPush Config.txIdleBase v))

/-- R191: the channel after a flush. -/
def Channel.flushed (k : Channel) : Channel := { k with txBuf := [], txCd := -1, hunting := true }

/-- R191: a flush hands a frame to the transport unless the buffer is empty and P_FLUSH_EMPTY is false (D10; log 14). -/
def Channel.flushSends (k : Channel) : Bool := !k.txBuf.isEmpty || Config.flushEmpty

/-- R191: `Flush(c)`. -/
def flush (c : Chan) (s : State) : State :=
  let k := s.ch c
  let s := if k.flushSends = true then s.emit (.sendFrame k.txBuf c) else s
  s.setCh c k.flushed

/-- R192: `TxTickStep(c)`: decrement, then flush on reaching 0 (D9; log 23). -/
def txTickStep (c : Chan) (s : State) : State :=
  let k := s.ch c
  if 0 < k.txCd then
    let s := s.setCh c { k with txCd := k.txCd - 1 }
    if k.txCd - 1 = 0 then flush c s else s
  else s

end Sys2Proof.Machine
end

