-- ==== Sys2Proof/Machine/HostOps.lean ====
section
/-! DEFINITION. The host operations: `tick` (44_tick_and_lines.md R210 to R212), `setDCD` (R213), `receiveFrame`
(42_receive_path.md R160). -/

namespace Sys2Proof.Machine

/-- R210, R211: the steps of one channel, in their fixed order: transmit, receive, end of frame. -/
def tickChan (c : Chan) (s : State) : State := eofTickStep c (rxTickStep c (txTickStep c s))

/-- R210: one tick with channel `first` before the other. -/
def tickFrom (first : Chan) (s : State) : State := tickChan first.other (tickChan first s)

/-- R212: the channel that runs first in the n-th tick, a free value under `any` (D32; log 15). -/
def tickFirst (n : Nat) : Chan :=
  match Config.tickOrder with
  | .AB => .A
  | .BA => .B
  | .any => if Config.tickChoice n then .A else .B

/-- R210: `tick()`. -/
def tickDevice (s : State) : State := tickFrom (tickFirst s.ticks) { s with ticks := s.ticks + 1 }

/-- R210: TICK. -/
def execTick (s : State) : Host.Outcome State Fault Refusal := .next (tickDevice s)

/-- R213: the line change of `setDCD(c, a)`. -/
def setDcdLine (c : Chan) (asserted : Bool) (s : State) : State :=
  if asserted = (s.ch c).dcd then s
  else
    let s := s.setCh c { s.ch c with dcd := asserted }
    if dcdEnabled (s.ch c).wr15 = true then raiseCause (extBit c) c s else s

/-- R213: SETDCD. -/
def execSetDcd (c : Chan) (asserted : Bool) (s : State) : Host.Outcome State Fault Refusal :=
  .next (setDcdLine c asserted s)

/-- R160: RXFRAME. -/
def execRxFrame (c : Chan) (bytes : List Byte) (n : Nat) (d : Int) (s : State) : Host.Outcome State Fault Refusal :=
  if frameDuty bytes n d = true then .next (enqueueFrame c bytes n d s) else .refused .hostFrameContract

end Sys2Proof.Machine
end

