-- ==== Sys2Proof/Machine/Interrupts.lean ====
section
/-! DEFINITION. The interrupt controller's priority, vector and acknowledge (60_exceptions.md R238 to R242). -/

namespace Sys2Proof.Machine

/-- R238: the causes that hold a rank. -/
inductive Cause where
  | bExt
  | aExt
  | aRx
  | bRx
  deriving DecidableEq, Repr

/-- R27, R238: the pending bit of a cause. -/
def causeBit : Cause → BitVec Config.pendWidth
  | .bExt => extBit .B
  | .aExt => extBit .A
  | .aRx => rxBit .A
  | .bRx => rxBit .B

/-- R239: the 3-bit code of a resolved cause; `none` is nothing pending (D21; log 33). -/
def causeCode : Option Cause → BitVec 3
  | some .bExt => 0b001
  | some .aExt => 0b101
  | some .aRx => 0b110
  | some .bRx => 0b010
  | none => 0b011

/-- Is the cause pending? -/
def isPending (pending : BitVec Config.pendWidth) (x : Cause) : Bool := pending &&& causeBit x != 0

/-- R238: the first set cause, in the fixed order. -/
def highestPending (pending : BitVec Config.pendWidth) : Option Cause :=
  [Cause.bExt, .aExt, .aRx, .bRx].find? (isPending pending)

/-- R240: `VectorBuild`: the code replaces three bits of WR2 (D21; log 33). -/
def vectorBuild (wr2 wr9 : Byte) (code : BitVec 3) : Byte :=
  let off := if wr9High wr9 then 4 else 1
  (wr2 &&& ~~~((0b111 : Byte) <<< off)) ||| (code.setWidth 8 <<< off)

/-- R241: the pending vector after the clear. `quirk` is P_ACK_BRX_QUIRK: acknowledging B_RX clears A_RX (C5, D24). -/
def ackClear (quirk : Bool) (pending : BitVec Config.pendWidth) : BitVec Config.pendWidth :=
  match highestPending pending with
  | none => pending
  | some x => if x = .bRx ∧ quirk = true then pending &&& ~~~(rxBit .A) else pending &&& ~~~(causeBit x)

/-- R242: `IntRaise(c)` if a bit of channel c is still pending. -/
def reRaise (c : Chan) (s : State) : State := if s.pending &&& chanBits c ≠ 0 then intRaise c s else s

/-- R241: `Acknowledge()`, for a value of P_ACK_BRX_QUIRK. -/
def acknowledge (quirk : Bool) (s : State) : State :=
  let v := vectorBuild s.wr2 s.wr9 (causeCode (highestPending s.pending))
  let s := { s with pending := ackClear quirk s.pending }
  (reRaise .B (reRaise .A s)).returnByte v

end Sys2Proof.Machine
end

