-- ==== Sys2Proof/Machine/Reads.lean ====
section
/-! DEFINITION. The register reads RR0 to RR15 (41_register_reads.md R130 to R149). Each control read first consumes the
pointer (R130) and hands its byte back in `returned` (log 2). -/

namespace Sys2Proof.Machine

/-- R130: a control read whose only effects are the consumed pointer and the returned byte. -/
def readStatus (v : Byte) (s : State) : Host.Outcome State Fault Refusal := .next (s.consumePtr.returnByte v)

/-- R131: RR0. -/
def execRr0 (c : Chan) (s : State) : Host.Outcome State Fault Refusal := readStatus (rr0Value (s.ch c)) s

/-- R132: RR1. -/
def execRr1 (c : Chan) (s : State) : Host.Outcome State Fault Refusal := readStatus (rr1Value (s.ch c)) s

/-- R133: RR2 on channel B, the vector with acknowledge. -/
def execRr2B (s : State) : Host.Outcome State Fault Refusal := .next (acknowledge Config.ackBrxQuirk s.consumePtr)

/-- R134: RR2 on channel A, the default (D25; log 36). -/
def execRr2A (s : State) : Host.Outcome State Fault Refusal := readStatus Config.defaultRead s

/-- R135: RR3 on channel A, the pending vector. -/
def execRr3A (s : State) : Host.Outcome State Fault Refusal := readStatus (s.pending.setWidth 8) s

/-- R136: RR3 on channel B. -/
def execRr3B (s : State) : Host.Outcome State Fault Refusal := readStatus 0x00 s

/-- R142, R72: RR8 through the control path: the pointer is consumed. -/
def execRr8Ctl (c : Chan) (s : State) : Host.Outcome State Fault Refusal := .next (dataRead c s.consumePtr)

/-- R142: RR8 through the data address: the pointer is neither read nor written (R71, D3; log 19). -/
def execRr8Data (c : Chan) (_p : BitVec 4) (s : State) : Host.Outcome State Fault Refusal := .next (dataRead c s)

/-- R144: RR10. -/
def execRr10 (_c : Chan) (s : State) : Host.Outcome State Fault Refusal := readStatus 0x00 s

/-- R149: RR15, the read-back of WR15. -/
def execRr15 (c : Chan) (s : State) : Host.Outcome State Fault Refusal := readStatus (s.ch c).wr15 s

/-! ### Default reads (R137) -/

/-- R138: RR4. -/
def execRr4 (_c : Chan) (s : State) : Host.Outcome State Fault Refusal := readStatus Config.defaultRead s

/-- R139: RR5. -/
def execRr5 (_c : Chan) (s : State) : Host.Outcome State Fault Refusal := readStatus Config.defaultRead s

/-- R140: RR6. -/
def execRr6 (_c : Chan) (s : State) : Host.Outcome State Fault Refusal := readStatus Config.defaultRead s

/-- R141: RR7. -/
def execRr7 (_c : Chan) (s : State) : Host.Outcome State Fault Refusal := readStatus Config.defaultRead s

/-- R143: RR9. -/
def execRr9 (_c : Chan) (s : State) : Host.Outcome State Fault Refusal := readStatus Config.defaultRead s

/-- R145: RR11. -/
def execRr11 (_c : Chan) (s : State) : Host.Outcome State Fault Refusal := readStatus Config.defaultRead s

/-- R146: RR12. -/
def execRr12 (_c : Chan) (s : State) : Host.Outcome State Fault Refusal := readStatus Config.defaultRead s

/-- R147: RR13. -/
def execRr13 (_c : Chan) (s : State) : Host.Outcome State Fault Refusal := readStatus Config.defaultRead s

/-- R148: RR14. -/
def execRr14 (_c : Chan) (s : State) : Host.Outcome State Fault Refusal := readStatus Config.defaultRead s

end Sys2Proof.Machine
end

