-- ==== Sys2Proof/Machine/Writes.lean ====
section
/-! DEFINITION. The register writes WR0 to WR15 (40_register_writes.md R100 to R117). Each control write first consumes
the pointer (R100). -/

namespace Sys2Proof.Machine

/-! ### WR0 -/

/-- R101: the action of the command field. -/
def wr0Command (c : Chan) (v : Byte) (s : State) : State :=
  if wr0Cmd v = 0b010 then { s with pending := 0, pendingShadow := 0 }
  else if wr0Cmd v = 0b011 then flush c s
  else s

/-- R101, R194: the action of the CRC field, the transmit-underrun-latch reset (D7; log 22). -/
def wr0Latch (c : Chan) (v : Byte) (s : State) : State :=
  if wr0Crc v = 0b11 then s.setCh c { s.ch c with txCd := 1 } else s

/-- R101: WR0: pointer, then command, then latch (D5; log 20). -/
def execWr0 (c : Chan) (v : Byte) (s : State) : Host.Outcome State Fault Refusal :=
  .next (wr0Latch c v (wr0Command c v { s.consumePtr with ptr := wr0Ptr v }))

/-! ### The stored registers -/

/-- R102: WR1. -/
def execWr1 (c : Chan) (v : Byte) (s : State) : Host.Outcome State Fault Refusal :=
  .next (s.consumePtr.setCh c { s.ch c with wr1 := v })

/-- R103: WR2, chip-wide: the channel is ignored. -/
def execWr2 (_c : Chan) (v : Byte) (s : State) : Host.Outcome State Fault Refusal :=
  .next { s.consumePtr with wr2 := v }

/-- R104: WR3: bit 4 forces hunting; nothing is stored (D41; log 41). -/
def execWr3 (c : Chan) (v : Byte) (s : State) : Host.Outcome State Fault Refusal :=
  .next (if wr3Hunt v = true then s.consumePtr.setCh c { s.ch c with hunting := true } else s.consumePtr)

/-- R108: WR6, the SDLC address. -/
def execWr6 (c : Chan) (v : Byte) (s : State) : Host.Outcome State Fault Refusal :=
  .next (s.consumePtr.setCh c { s.ch c with sdlcAddr := v })

/-- R111: WR9, chip-wide, stored verbatim; it resets nothing (D19; log 31). -/
def execWr9 (_c : Chan) (v : Byte) (s : State) : Host.Outcome State Fault Refusal :=
  .next { s.consumePtr with wr9 := v }

/-- R117: WR15, then `IntRaise(c)`. -/
def execWr15 (c : Chan) (v : Byte) (s : State) : Host.Outcome State Fault Refusal :=
  .next (intRaise c (s.consumePtr.setCh c { s.ch c with wr15 := v }))

/-! ### The data register -/

/-- R110, R72: WR8 through the control path: the pointer is consumed. -/
def execWr8Ctl (c : Chan) (v : Byte) (s : State) : Host.Outcome State Fault Refusal := txAppend c v s.consumePtr

/-- R110: WR8 through the data address: the pointer is neither read nor written (R71, D3; log 19). -/
def execWr8Data (c : Chan) (_p : BitVec 4) (v : Byte) (s : State) : Host.Outcome State Fault Refusal := txAppend c v s

/-! ### Writes with no effect -/

/-- R105: only the pointer is consumed; the byte is lost (D43; log 43). -/
def writeNothing (_c : Chan) (_v : Byte) (s : State) : Host.Outcome State Fault Refusal := .next s.consumePtr

/-- R106: WR4, no effect. -/
def execWr4 (c : Chan) (v : Byte) (s : State) : Host.Outcome State Fault Refusal := writeNothing c v s

/-- R107: WR5, no effect. -/
def execWr5 (c : Chan) (v : Byte) (s : State) : Host.Outcome State Fault Refusal := writeNothing c v s

/-- R109: WR7, no effect. -/
def execWr7 (c : Chan) (v : Byte) (s : State) : Host.Outcome State Fault Refusal := writeNothing c v s

/-- R112: WR10, no effect. -/
def execWr10 (c : Chan) (v : Byte) (s : State) : Host.Outcome State Fault Refusal := writeNothing c v s

/-- R113: WR11, no effect. -/
def execWr11 (c : Chan) (v : Byte) (s : State) : Host.Outcome State Fault Refusal := writeNothing c v s

/-- R114: WR12, no effect. -/
def execWr12 (c : Chan) (v : Byte) (s : State) : Host.Outcome State Fault Refusal := writeNothing c v s

/-- R115: WR13, no effect. -/
def execWr13 (c : Chan) (v : Byte) (s : State) : Host.Outcome State Fault Refusal := writeNothing c v s

/-- R116: WR14, no effect. -/
def execWr14 (c : Chan) (v : Byte) (s : State) : Host.Outcome State Fault Refusal := writeNothing c v s

end Sys2Proof.Machine
end

