-- ==== Sys2Proof/Machine/Dispatch.lean ====
section
/-! DEFINITION. One arm per operation of spec/opcode_table.json. -/

namespace Sys2Proof.Machine

def exec (i : Instr) (s : State) : Host.Outcome State Fault Refusal :=
  match i with
  | .wr0 c v => Sys2Proof.Machine.execWr0 c v s
  | .wr1 c v => Sys2Proof.Machine.execWr1 c v s
  | .wr2 c v => Sys2Proof.Machine.execWr2 c v s
  | .wr3 c v => Sys2Proof.Machine.execWr3 c v s
  | .wr4 c v => Sys2Proof.Machine.execWr4 c v s
  | .wr5 c v => Sys2Proof.Machine.execWr5 c v s
  | .wr6 c v => Sys2Proof.Machine.execWr6 c v s
  | .wr7 c v => Sys2Proof.Machine.execWr7 c v s
  | .wr8Ctl c v => Sys2Proof.Machine.execWr8Ctl c v s
  | .wr9 c v => Sys2Proof.Machine.execWr9 c v s
  | .wr10 c v => Sys2Proof.Machine.execWr10 c v s
  | .wr11 c v => Sys2Proof.Machine.execWr11 c v s
  | .wr12 c v => Sys2Proof.Machine.execWr12 c v s
  | .wr13 c v => Sys2Proof.Machine.execWr13 c v s
  | .wr14 c v => Sys2Proof.Machine.execWr14 c v s
  | .wr15 c v => Sys2Proof.Machine.execWr15 c v s
  | .wr8Data c p v => Sys2Proof.Machine.execWr8Data c p v s
  | .rr0 c => Sys2Proof.Machine.execRr0 c s
  | .rr1 c => Sys2Proof.Machine.execRr1 c s
  | .rr4 c => Sys2Proof.Machine.execRr4 c s
  | .rr5 c => Sys2Proof.Machine.execRr5 c s
  | .rr6 c => Sys2Proof.Machine.execRr6 c s
  | .rr7 c => Sys2Proof.Machine.execRr7 c s
  | .rr8Ctl c => Sys2Proof.Machine.execRr8Ctl c s
  | .rr9 c => Sys2Proof.Machine.execRr9 c s
  | .rr10 c => Sys2Proof.Machine.execRr10 c s
  | .rr11 c => Sys2Proof.Machine.execRr11 c s
  | .rr12 c => Sys2Proof.Machine.execRr12 c s
  | .rr13 c => Sys2Proof.Machine.execRr13 c s
  | .rr14 c => Sys2Proof.Machine.execRr14 c s
  | .rr15 c => Sys2Proof.Machine.execRr15 c s
  | .rr2B => Sys2Proof.Machine.execRr2B s
  | .rr2A => Sys2Proof.Machine.execRr2A s
  | .rr3B => Sys2Proof.Machine.execRr3B s
  | .rr3A => Sys2Proof.Machine.execRr3A s
  | .rr8Data c p => Sys2Proof.Machine.execRr8Data c p s
  | .tick => Sys2Proof.Machine.execTick s
  | .setDcd c asserted => Sys2Proof.Machine.execSetDcd c asserted s
  | .rxFrame c bytes n d => Sys2Proof.Machine.execRxFrame c bytes n d s

end Sys2Proof.Machine
end

