-- ==== Sys2Proof/Machine/Fetch.lean ====
section
/-! DEFINITION. Taking the next host call (00_scope.md R4), and placing one by its operation word. The device fetches no
instruction (20_memory.md R60): the calls wait in `State.calls` (log 1). -/

namespace Sys2Proof.Machine

/-- The state in which a taken call runs: the later calls `rest` wait, and nothing is handed back yet (log 1, log 2). -/
def State.accept (rest : List HostCall) (s : State) : State := { s with calls := rest, returned := none }

/-- R73: puts the call whose word is `k` first in line, with the pointer at which its word is `k`. -/
def State.placeWord (k : Byte) (s : State) : State :=
  { s with ptr := ptrOfWord s.ptr k, calls := callOfWord k :: s.calls }

end Sys2Proof.Machine
end

