-- ==== Sys2Proof/Machine/Step.lean ====
section
/-! DEFINITION. One step of the machine: one host call (00_scope.md R4, R10). -/

namespace Sys2Proof.Machine

/-- R4, R10: takes the first waiting call and runs the operation it names; a call that names none is refused (R77). With
no call waiting the device does nothing (R252; log 1). -/
def step (s : State) : Host.Outcome State Fault Refusal :=
  match s.calls with
  | [] => .next s
  | call :: rest =>
    match decodeCall s.ptr call with
    | .ok i => exec i (s.accept rest)
    | .error e => .refused (.undecodable e)

/-- `s` with the call of the table word `w` first in line (log 4). -/
def State.withFetchWord (s : State) (_nbits w : Nat) : State := s.placeWord (BitVec.ofNat 8 w)

end Sys2Proof.Machine
end

