-- ==== Sys2Proof/Safety.lean ====
section
/-! DEFINITION. The terms the claims use: the invariants of 10_state.md R45, the receive queue as a list, the events of a
channel, and running several calls of one kind. -/

namespace Sys2Proof.Machine

/-! ### Invariants (R45) -/

/-- R24, R25, R36, R40, R45: what the operations keep true of a channel between host calls. -/
structure Channel.Inv (k : Channel) : Prop where
  /-- R45 (1): the occupied slots form one run in ring order, starting at the cursor. -/
  run : ∃ m, m ≤ Config.noRxbuf ∧ ∀ j, j < Config.noRxbuf → ((k.ringSlot j).cd ≠ -1 ↔ j < m)
  /-- R45 (2): only the active slot can be ready; every other occupied slot still counts. -/
  waiting : ∀ j, 0 < j → j < Config.noRxbuf → (k.ringSlot j).cd = -1 ∨ 1 ≤ (k.ringSlot j).cd
  /-- R25: a countdown is at least −1. -/
  active : -1 ≤ k.act.cd
  /-- R45 (3), R40: a ready slot has an unread byte; otherwise the read cursor is 0. -/
  cursor : if k.act.cd = 0 then k.rdPtr < k.act.len else k.rdPtr = 0
  /-- R25, R161, R169: an occupied slot holds `len` bytes, a payload byte at least and the trailer, within capacity. -/
  bytes : ∀ j, j < Config.noRxbuf → (k.ringSlot j).cd ≠ -1 →
    (k.ringSlot j).data.length = (k.ringSlot j).len ∧ Config.trailerLen < (k.ringSlot j).len ∧
      (k.ringSlot j).len ≤ Config.rxSlotBytes
  /-- R45 (5): the transmit countdown is idle or counting. -/
  transmit : k.txCd = -1 ∨ 1 ≤ k.txCd
  /-- R45 (6): the transmit buffer is within its capacity. -/
  room : k.txBuf.length ≤ Config.txBufBytes
  /-- R36, R214: CTS keeps its initial value. -/
  clear : k.cts = false

/-- R45: the invariant of the device. -/
structure State.Inv (s : State) : Prop where
  chA : s.chA.Inv
  chB : s.chB.Inv
  /-- R45 (4), R243: no transmit cause is pending. -/
  noTx : s.pending &&& (txBit .A ||| txBit .B) = 0
  /-- R28: the shadow is only ever zeroed. -/
  shadow : s.pendingShadow = 0

/-! ### The receive queue -/

/-- R45 (1): the occupied slots in ring order from the cursor, the oldest frame first. -/
def Channel.queue (k : Channel) : List Slot :=
  ((List.range Config.noRxbuf).map k.ringSlot).filter fun x => decide (x.cd ≠ -1)

/-- What a slot carries: its length and its bytes. -/
def Slot.frame (x : Slot) : Nat × List Byte := (x.len, x.data)

/-! ### Events -/

/-- Is the event a frame handed to the transport by channel `c`? -/
def Event.isSendOf (c : Chan) : Event → Bool
  | .assertInterrupt => false
  | .sendFrame _ d => d == c
  | .rxDropped _ => false

/-! ### Runs of one kind of call -/

/-- `t` follows from `s` by `n` calls of `tick()`. -/
def AfterTicks : Nat → State → State → Prop
  | 0, s, t => t = s
  | n + 1, s, t => ∃ u, AfterTicks n s u ∧ exec .tick u = .next t

/-- `t` follows from `s` by WR8 writes to channel `c` of the given bytes, in order, each through the data address or the
control path (R110, R72). -/
def AfterDataWrites (c : Chan) : List Byte → State → State → Prop
  | [], s, t => t = s
  | v :: vs, s, t =>
    ∃ u, (exec (.wr8Data c s.ptr v) s = .next u ∨ exec (.wr8Ctl c v) s = .next u) ∧ AfterDataWrites c vs u t

end Sys2Proof.Machine
end

