-- ==== Sys2Proof/Certificates/Slice0/Obligations.lean ====
section
/-! DEFINITION. The statements for the provers. Rules R<n> and decisions D<n> are those of spec/; log <n> is
notes/assumptions/<n>.md. A statement about an OPEN parameter or a free value holds for each of its values. -/

open Sys2Proof Sys2Proof.Machine

/-! ### Encoding -/

/-- R73, R74 (the operation word is the spec's own notation, D35): decoding the encoding of a well-formed operation
gives it back, with every operand. -/
def Obligations.DecodeOfEncodeIsTheOperation : Prop :=
  ∀ i : Instr, i.wellFormed = true → decode (encode i).1 (encode i).2 = .ok i

/-- R73, R74, R77 (D35): what decodes is well formed, and has the word it was decoded from. -/
def Obligations.DecodedOperationHasItsWord : Prop :=
  ∀ (k : Byte) (a : Args) (i : Instr), decode k a = .ok i → i.wellFormed = true ∧ (encode i).1 = k

/-- R77 (D35): the decoder refuses as invalid exactly the words R77 lists, every bus word decodes, and a step on an
invalid word is refused by name. -/
def Obligations.InvalidWordsAreRefusedByName : Prop :=
  ∀ k : Byte,
    let cls := k.toNat / 64
    let invalid := cls = 3 ∨ (cls = 2 ∧ (k.getLsbD 5 = true ∨ 3 ≤ k.toNat % 16 ∨ (k.toNat % 16 = 0 ∧
        k.getLsbD 4 = true)))
    (∀ a : Args, decode k a = .error (.invalidWord k) ↔ invalid) ∧
    (∀ a : Args, cls < 2 → ∃ i, decode k a = .ok i) ∧
    (∀ (s : State) (rest : List HostCall), s.calls = .word k :: rest → invalid →
      step s = .refused (.undecodable (.invalidWord k)))

/-- Words written from the spec's encodings (95_test_vectors.md L2.9, opcode table): a sanity statement. -/
def Obligations.SpecWordsDecode : Prop :=
  decode 0x12 Args.zero = .ok .rr2A ∧ decode 0x02 Args.zero = .ok .rr2B ∧
      decode 0x3F Args.zero = .ok (.rr8Data .A 15) ∧
  decode 0x5F (Args.ofValue 0x08) = .ok (.wr15 .A 0x08) ∧ decode 0x48 (Args.ofValue 0x99) = .ok (.wr8Ctl .B 0x99) ∧
  decode 0x65 (Args.ofValue 0x99) = .ok (.wr8Data .B 5 0x99) ∧ decode 0x80 Args.zero = .ok .tick ∧
  decode 0x91 Args.zero = .ok (.setDcd .A false) ∧ decode 0x82 Args.least = .ok (.rxFrame .B [0x00] 1 1)

/-- R50, R53, R70 (bit 2 set = data is D1, the other bits ignored is D2; log 18): the channel is address bit 1, a data
access has index 8 whatever the pointer, a control access has the pointer as its index; no other address bit counts. -/
def Obligations.BusAccessSelectsChannelAndRegister : Prop :=
  ∀ (address : Nat) (v : Byte) (ptr : BitVec 4),
    let c := if address / 2 % 2 = 1 then Chan.A else Chan.B
    (address / 4 % 2 = 1 →
      decodeCall ptr (.write address v) = .ok (.wr8Data c ptr v) ∧
          decodeCall ptr (.read address) = .ok (.rr8Data c ptr)) ∧
    (address / 4 % 2 = 0 →
      decodeCall ptr (.write address v) = .ok (writeMap c ptr v) ∧
          decodeCall ptr (.read address) = .ok (readMap c ptr))

/-! ### The step -/

/-- R4, R10, R70 (the queue of calls is the model's, log 1, log 2): a step takes the first waiting call and runs the
operation it decodes to, the later calls waiting and nothing handed back yet; a call that decodes to none is refused;
with no call waiting nothing changes. -/
def Obligations.StepRunsTheDecodedCall : Prop :=
  ∀ s : State,
    (s.calls = [] → step s = .next s) ∧
    (∀ call rest i, s.calls = call :: rest → decodeCall s.ptr call = .ok i →
      step s = exec i { s with calls := rest, returned := none }) ∧
    (∀ call rest e, s.calls = call :: rest → decodeCall s.ptr call = .error e → step s = .refused (.undecodable e))

/-- R80, R71, R101 (D3, D4): from pointer 0, a WR0 write of the byte n (which is point high for n ≥ 8) and then a
control write or read of the same channel performs that access at index n, for every n. -/
def Obligations.TwoByteAddressingReachesEveryRegister : Prop :=
  ∀ (c : Chan) (n : BitVec 4) (v : Byte) (rest : List HostCall) (s : State), s.ptr = 0 →
    let ctl := if c = .A then 2 else 0
    (s.calls = .write ctl (n.setWidth 8) :: .write ctl v :: rest →
      ∃ t, step s = .next t ∧ step t = exec (writeMap c n v) { s with ptr := n, calls := rest, returned := none }) ∧
    (s.calls = .write ctl (n.setWidth 8) :: .read ctl :: rest →
      ∃ t, step s = .next t ∧ step t = exec (readMap c n) { s with ptr := n, calls := rest, returned := none })

/-- R10, R100, R130, R169, R190, R230 (D12, D30; log 7, log 25): an operation is refused exactly when it appends to a
full transmit buffer or delivers a frame that breaks a host duty; every other operation completes. -/
def Obligations.RefusalsAreTheHostDuties : Prop :=
  ∀ (i : Instr) (s : State) (r : Refusal), exec i s = .refused r ↔
    (r = .txBufferFull ∧ ∃ c v, (i = .wr8Ctl c v ∨ ∃ p, i = .wr8Data c p v) ∧
      (s.ch c).txBuf.length = Config.txBufBytes) ∨
    (r = .hostFrameContract ∧ ∃ c bytes n d, i = .rxFrame c bytes n d ∧
      ¬ (bytes.length = n ∧ 1 ≤ n ∧ n + 3 ≤ Config.rxSlotBytes ∧ 1 ≤ d))

/-! ### Reset and the invariant -/

/-- R270: every field R270 lists, after initialization. Three values are the source's (DCD high, transmit timer −1,
slots free); the others are the spec's decision D28 (log 37); the trace is empty by D34 (log 3). The model's own `calls`
and `returned` are empty (log 1, log 2); its counter `ticks` is left out, for no statement rests on its value (log 15).
-/
def Obligations.ResetIsTheInitialState : Prop :=
  (∀ c : Chan, (State.reset.ch c).dcd = true ∧ (State.reset.ch c).txCd = -1 ∧
    (∀ i : Fin 4, (State.reset.ch c).slots[i].cd = -1 ∧ (State.reset.ch c).slots[i].len = 0 ∧
      (State.reset.ch c).slots[i].data = []) ∧ (State.reset.ch c).cts = false ∧ (State.reset.ch c).wr1 = 0 ∧
    (State.reset.ch c).wr15 = 0 ∧ (State.reset.ch c).sdlcAddr = 0 ∧ (State.reset.ch c).hunting = false ∧
    (State.reset.ch c).txBuf = [] ∧ (State.reset.ch c).rxCur = 0 ∧ (State.reset.ch c).rdPtr = 0 ∧
    (State.reset.ch c).eofCd = 0 ∧ (State.reset.ch c).eofPending = false) ∧
  State.reset.ptr = 0 ∧ State.reset.pending = 0 ∧ State.reset.pendingShadow = 0 ∧ State.reset.wr2 = 0 ∧
  State.reset.wr9 = 0 ∧ State.reset.trace = [] ∧ State.reset.calls = [] ∧ State.reset.returned = none

/-- R270, the derived initial reads (they rest on D28, D26, D27): RR0 is 0x4C with P_RR0_ABORT_WHEN_EMPTY as bit 7, RR1
is P_RR1_FIXED, RR3 on A and RR15 are 0x00, RR2 on B is 0x06. -/
def Obligations.InitialReadsHaveTheirValues : Prop :=
  ∀ c : Chan,
    (∃ t, exec (.rr0 c) State.reset = .next t ∧
      t.returned = some (0x4C ||| (if Config.rr0AbortWhenEmpty then 0x80 else 0x00))) ∧
    (∃ t, exec (.rr1 c) State.reset = .next t ∧ t.returned = some Config.rr1Fixed) ∧
    (∃ t, exec .rr3A State.reset = .next t ∧ t.returned = some 0x00) ∧
    (∃ t, exec (.rr15 c) State.reset = .next t ∧ t.returned = some 0x00) ∧
    (∃ t, exec .rr2B State.reset = .next t ∧ t.returned = some 0x06)

/-- R45, R270: the initial state meets the invariant. -/
def Obligations.ResetMeetsInvariant : Prop := State.reset.Inv

/-- R45 (with R25, R28, R36, R40): from every state that meets the invariant, a step gives a state that meets it. It
rests on the slot release D14 and on the refused frames D12, D30. -/
def Obligations.EveryStepKeepsInvariant : Prop :=
  ∀ s t : State, s.Inv → step s = .next t → t.Inv

/-! ### Register writes -/

/-- R101 (order D5; abort D6, D10; latch D7; flush D9): WR0 sets the pointer, then runs the command, then the latch
reset, and changes nothing else. -/
def Obligations.CommandWriteRunsItsFields : Prop :=
  ∀ (c : Chan) (v : Byte) (s : State),
    let reg := v.toNat % 8
    let cmd := v.toNat / 8 % 8
    let crc := v.toNat / 64
    let k := s.ch c
    ∃ t, exec (.wr0 c v) s = .next t ∧
      t.ptr.toNat = (if cmd = 1 then 8 + reg else reg) ∧
      t.pending = (if cmd = 2 then 0 else s.pending) ∧
      t.pendingShadow = (if cmd = 2 then 0 else s.pendingShadow) ∧
      t.ch c = { k with
        txBuf := if cmd = 3 then [] else k.txBuf
        hunting := if cmd = 3 then true else k.hunting
        txCd := if crc = 3 then 1 else if cmd = 3 then -1 else k.txCd } ∧
      t.ch c.other = s.ch c.other ∧
      t.trace = s.trace ++
        (if cmd = 3 ∧ (k.txBuf ≠ [] ∨ Config.flushEmpty = true) then [.sendFrame k.txBuf c] else []) ∧
      t.wr2 = s.wr2 ∧ t.wr9 = s.wr9 ∧ t.calls = s.calls ∧ t.returned = s.returned ∧ t.ticks = s.ticks

/-- R102, R103, R108: WR1 and WR6 store the byte in their channel, WR2 stores it chip-wide through either channel; the
pointer is consumed and nothing else changes, so no write calls `IntRaise`. None reads back: RR1 is what it was, RR2 on
channel A (by decision D25; log 36) and RR6 read 0xFF. -/
def Obligations.StoredRegisterWritesStoreAndNothingElse : Prop :=
  ∀ (c : Chan) (v : Byte) (s : State),
    exec (.wr1 c v) s = .next (State.setCh { s with ptr := 0 } c { s.ch c with wr1 := v }) ∧
    exec (.wr2 c v) s = .next { s with ptr := 0, wr2 := v } ∧
    exec (.wr6 c v) s = .next (State.setCh { s with ptr := 0 } c { s.ch c with sdlcAddr := v }) ∧
    (∀ t, exec (.wr1 c v) s = .next t → ∃ u w, exec (.rr1 c) t = .next u ∧ exec (.rr1 c) s = .next w ∧
      u.returned = w.returned) ∧
    (∀ t, exec (.wr2 c v) s = .next t → ∃ u, exec .rr2A t = .next u ∧ u.returned = some 0xFF) ∧
    (∀ t, exec (.wr6 c v) s = .next t → ∃ u, exec (.rr6 c) t = .next u ∧ u.returned = some 0xFF)

/-- R111 (D19; log 31): WR9 stores the byte chip-wide through either channel, resets nothing and raises nothing. -/
def Obligations.InterruptControlWriteOnlyStores : Prop :=
  ∀ (c : Chan) (v : Byte) (s : State), exec (.wr9 c v) s = .next { s with ptr := 0, wr9 := v }

/-- R104 (D41; log 41): WR3 with bit 4 set makes the channel hunt; with bit 4 clear it changes nothing but the pointer.
-/
def Obligations.ReceiveControlWriteOnlySetsHunting : Prop :=
  ∀ (c : Chan) (v : Byte) (s : State),
    (v.toNat / 16 % 2 = 1 →
        exec (.wr3 c v) s = .next (State.setCh { s with ptr := 0 } c { s.ch c with hunting := true })) ∧
    (v.toNat / 16 % 2 = 0 → exec (.wr3 c v) s = .next { s with ptr := 0 })

/-- R105 to R107, R109, R112 to R116 (D43; log 43): the eight unlisted writes change nothing but the pointer. -/
def Obligations.UnlistedWritesOnlyConsumeThePointer : Prop :=
  ∀ (c : Chan) (v : Byte) (s : State),
    exec (.wr4 c v) s = .next { s with ptr := 0 } ∧ exec (.wr5 c v) s = .next { s with ptr := 0 } ∧
    exec (.wr7 c v) s = .next { s with ptr := 0 } ∧ exec (.wr10 c v) s = .next { s with ptr := 0 } ∧
    exec (.wr11 c v) s = .next { s with ptr := 0 } ∧ exec (.wr12 c v) s = .next { s with ptr := 0 } ∧
    exec (.wr13 c v) s = .next { s with ptr := 0 } ∧ exec (.wr14 c v) s = .next { s with ptr := 0 }

/-- R117, R234 (D22; log 34): WR15 stores the byte, then asserts the line once if WR1 bit 0 of the channel is set and
any cause of either channel is pending; nothing else changes. -/
def Obligations.ExternalEnableWriteStoresThenRaises : Prop :=
  ∀ (c : Chan) (v : Byte) (s : State),
    exec (.wr15 c v) s =
      .next (State.setCh { s with
          ptr := 0
          trace := s.trace ++ (if (s.ch c).wr1.getLsbD 0 = true ∧ s.pending ≠ 0 then [.assertInterrupt] else []) }
        c { s.ch c with wr15 := v })

/-- R110, R190, R72 (idle base 0 is D8, log 16; capacity D30, log 10): with room in the buffer, a WR8 write appends the
byte and adds 30 ticks, counted from 0 when idle. Through the data address the pointer stays (D3); through the control
path it is consumed. Nothing else changes. -/
def Obligations.DataWriteAppendsAndExtends : Prop :=
  ∀ (c : Chan) (p : BitVec 4) (v : Byte) (s : State), (s.ch c).txBuf.length ≠ Config.txBufBytes →
    let k := s.ch c
    let k' := { k with txBuf := k.txBuf ++ [v], txCd := (if k.txCd < 0 then 0 else k.txCd) + 30 }
    exec (.wr8Data c p v) s = .next (s.setCh c k') ∧
        exec (.wr8Ctl c v) s = .next (State.setCh { s with ptr := 0 } c k')

/-- R110, R190 (D30; log 10): a WR8 write with the buffer full is refused by name. -/
def Obligations.DataWriteToFullBufferIsRefused : Prop :=
  ∀ (c : Chan) (p : BitVec 4) (v : Byte) (s : State), (s.ch c).txBuf.length = Config.txBufBytes →
    exec (.wr8Data c p v) s = .refused .txBufferFull ∧ exec (.wr8Ctl c v) s = .refused .txBufferFull

/-! ### Register reads -/

/-- R131, R40 (bits 1 and 7 rest on D26; log 13): each bit of RR0; the read changes nothing but the pointer. -/
def Obligations.StatusReadHasItsBits : Prop :=
  ∀ (c : Chan) (s : State),
    let k := s.ch c
    let ready := k.act.cd = 0
    let u := if ready then k.act.len - k.rdPtr else 0
    ∃ r : Byte, exec (.rr0 c) s = .next { s with ptr := 0, returned := some r } ∧
      (r.getLsbD 0 = true ↔ 0 < u) ∧ r.getLsbD 1 = false ∧ r.getLsbD 2 = true ∧ r.getLsbD 3 = k.dcd ∧
      r.getLsbD 4 = k.hunting ∧ r.getLsbD 5 = k.cts ∧ (r.getLsbD 6 = true ↔ k.txCd = -1) ∧
      (ready → (r.getLsbD 7 = true ↔ u ≤ 2)) ∧ (¬ ready → r.getLsbD 7 = Config.rr0AbortWhenEmpty)

/-- R132 (D27; log 12): RR1 is P_RR1_FIXED, with bit 7 set when exactly one unread byte remains; nothing but the pointer
changes. -/
def Obligations.SpecialConditionReadMarksTheLastByte : Prop :=
  ∀ (c : Chan) (s : State),
    ((s.ch c).unread = 1 → exec (.rr1 c) s = .next { s with ptr := 0, returned := some (Config.rr1Fixed ||| 0x80) }) ∧
    ((s.ch c).unread ≠ 1 → exec (.rr1 c) s = .next { s with ptr := 0, returned := some Config.rr1Fixed })

/-- R137: the read indices 4, 5, 6, 7, 9, 11, 12, 13 and 14 of both channels, and index 2 on channel A (R134, by
decision D25; log 36), return 0xFF and change nothing but the pointer. -/
def Obligations.UnlistedReadsReturnTheDefault : Prop :=
  ∀ (c : Chan) (s : State),
    let r := Host.Outcome.next { s with ptr := 0, returned := some 0xFF }
    exec (.rr4 c) s = r ∧ exec (.rr5 c) s = r ∧ exec (.rr6 c) s = r ∧ exec (.rr7 c) s = r ∧ exec (.rr9 c) s = r ∧
    exec (.rr11 c) s = r ∧ exec (.rr12 c) s = r ∧ exec (.rr13 c) s = r ∧ exec (.rr14 c) s = r ∧ exec .rr2A s = r ∧
    (∀ n ∈ [4#4, 5#4, 6#4, 7#4, 9#4, 11#4, 12#4, 13#4, 14#4], exec (readMap c n) s = r) ∧ exec (readMap .A 2) s = r

/-- R149: RR15 returns WR15. R135 (layout D20; log 32): RR3 on channel A returns the pending vector and acknowledges
nothing. Each changes nothing but the pointer. -/
def Obligations.ReadBackReadsReturnTheirRegister : Prop :=
  ∀ (c : Chan) (s : State),
    exec (.rr15 c) s = .next { s with ptr := 0, returned := some (s.ch c).wr15 } ∧
    ∃ r : Byte, r.toNat = s.pending.toNat ∧ exec .rr3A s = .next { s with ptr := 0, returned := some r }

/-- R142 (D3): with no byte available a data read returns 0x00 and changes nothing; through the control path the pointer
is consumed. -/
def Obligations.DataReadWithoutByteReturnsZero : Prop :=
  ∀ (c : Chan) (p : BitVec 4) (s : State), (s.ch c).unread = 0 →
    exec (.rr8Data c p) s = .next { s with returned := some 0x00 } ∧
    exec (.rr8Ctl c) s = .next { s with ptr := 0, returned := some 0x00 }

/-- R142 (RXMODE position D17): a data read of a byte that is not the last returns it and moves the cursor; in the mode
"all characters" it sets RX of the channel and asserts the line if WR1 bit 0 is set. Nothing else changes. -/
def Obligations.DataReadPopsAnInnerByte : Prop :=
  ∀ (c : Chan) (p : BitVec 4) (b : Byte) (s : State),
    let k := s.ch c
    2 ≤ k.unread → k.act.data[k.rdPtr]? = some b →
    let all := k.wr1.toNat / 8 % 4 = 2
    let s' := State.setCh { s with
        pending := s.pending ||| (if all then rxBit c else 0)
        trace := s.trace ++ (if all ∧ k.wr1.getLsbD 0 = true then [.assertInterrupt] else [])
        returned := some b } c { k with rdPtr := k.rdPtr + 1 }
    exec (.rr8Data c p) s = .next s' ∧ exec (.rr8Ctl c) s = .next { s' with ptr := 0 }

/-- R142, R166 (release D14, log 27; BRK_IE position D18): a data read of the last byte returns it, sets hunting, frees
the slot and advances the cursor; with BRK_IE it sets EXT of the channel and asserts the line if WR1 bit 0 is set.
Nothing else changes. -/
def Obligations.DataReadPopsTheLastByte : Prop :=
  ∀ (c : Chan) (p : BitVec 4) (b : Byte) (s : State),
    let k := s.ch c
    k.unread = 1 → k.act.data[k.rdPtr]? = some b →
    let brk := k.wr15.getLsbD 7 = true
    let s' := State.setCh { s with
        pending := s.pending ||| (if brk then extBit c else 0)
        trace := s.trace ++ (if brk ∧ k.wr1.getLsbD 0 = true then [.assertInterrupt] else [])
        returned := some b } c
      { k with
        hunting := true
        slots := k.slots.set k.rxCur { k.act with cd := -1 }
        rxCur := k.rxCur + 1
        rdPtr := 0 }
    exec (.rr8Data c p) s = .next s' ∧ exec (.rr8Ctl c) s = .next { s' with ptr := 0 }

/-! ### Acknowledge -/

/-- R133, R238 to R242 (codes and insertion D21, layout D20, flag D19, re-raise D23, P_ACK_BRX_QUIRK = false D24): the
vector read on channel B resolves the first pending cause of B_EXT, A_EXT, A_RX, B_RX, clears that bit only, returns WR2
with the code at bit 4 or 1, and re-raises for each channel with a bit left. Nothing else changes but the pointer. -/
def Obligations.AcknowledgeTakesTheHighestCause : Prop :=
  ∀ s : State,
    let p := s.pending
    let code := if p.getLsbD 0 then 1 else if p.getLsbD 3 then 5 else if p.getLsbD 5
        then 6 else if p.getLsbD 2 then 2 else 3
    let p' := if p.getLsbD 0 then p &&& 0b111110 else if p.getLsbD 3 then p &&& 0b110111
      else if p.getLsbD 5 then p &&& 0b011111 else if p.getLsbD 2 then p &&& 0b111011 else p
    let vec := if s.wr9.getLsbD 4 then (s.wr2 &&& 0x8F) ||| BitVec.ofNat 8 (16 * code)
      else (s.wr2 &&& 0xF1) ||| BitVec.ofNat 8 (2 * code)
    let es := (if p' &&& 0b111000 ≠ 0 ∧ s.chA.wr1.getLsbD 0 = true then [Event.assertInterrupt] else []) ++
      (if p' &&& 0b000111 ≠ 0 ∧ s.chB.wr1.getLsbD 0 = true then [Event.assertInterrupt] else [])
    exec .rr2B s = .next { s with ptr := 0, pending := p', returned := some vec, trace := s.trace ++ es }

/-- R246, R238, R239 (D21, D24; log 17, log 33): four acknowledges in a row leave no ranked cause pending, and the next
one changes no pending bit and reports the code "none": three WR2 bits are 0b011. -/
def Obligations.RepeatedAcknowledgeDrains : Prop :=
  ∀ s0 s1 s2 s3 s4 s5 : State, exec .rr2B s0 = .next s1 → exec .rr2B s1 = .next s2 → exec .rr2B s2 = .next s3 →
    exec .rr2B s3 = .next s4 → exec .rr2B s4 = .next s5 →
    s4.pending &&& 0b101101 = 0 ∧ s5.pending = s4.pending ∧
    ∃ v, s5.returned = some v ∧ v.toNat / (if s0.wr9.getLsbD 4 then 16 else 2) % 8 = 3

/-! ### Tick -/

/-- R211: a tick runs, for each channel, the transmit step, then the receive step, then the end-of-frame step, each on
the state the earlier one left. (Which channel is first is the next statement's; `ticks` is the model's counter, log
15.) -/
def Obligations.TickRunsItsStepsInOrder : Prop :=
  ∀ s : State, ∃ first : Chan, exec .tick s = .next
    (eofTickStep first.other (rxTickStep first.other (txTickStep first.other
      (eofTickStep first (rxTickStep first (txTickStep first { s with ticks := s.ticks + 1 }))))))

/-- R212 (D32; log 15): P_TICK_ORDER selects the first channel: A under `AB`, B under `BA`, and under `any` a free
value, which the statement does not constrain. `ticks` is the model's counter. -/
def Obligations.TickOrderFollowsTheParameter : Prop :=
  ∀ s : State,
    let first := match Config.tickOrder with
      | .AB => Chan.A
      | .BA => Chan.B
      | .any => if Config.tickChoice s.ticks = true then Chan.A else Chan.B
    exec .tick s = .next (tickChan first.other (tickChan first { s with ticks := s.ticks + 1 }))

/-- R212 (D32): whichever channel runs first, a tick leaves the same state but for the order of the two channels'
events. -/
def Obligations.ChannelOrderOnlyReordersEvents : Prop :=
  ∀ s : State, ∃ (u : State) (esA esB : List Event),
    tickChan .B (tickChan .A s) = { u with trace := s.trace ++ (esA ++ esB) } ∧
    tickChan .A (tickChan .B s) = { u with trace := s.trace ++ (esB ++ esA) } ∧
    (∀ e ∈ esA, e = .assertInterrupt ∨ ∃ bytes, e = .sendFrame bytes .A) ∧
    (∀ e ∈ esB, e = .assertInterrupt ∨ ∃ bytes, e = .sendFrame bytes .B)

/-- R192, R191 (D9, D10): the transmit tick step does nothing when idle, counts down, and on reaching 0 hands the buffer
over, empties it, goes idle and hunts. -/
def Obligations.TransmitTickCountsThenFlushes : Prop :=
  ∀ (c : Chan) (s : State),
    let k := s.ch c
    (k.txCd ≤ 0 → txTickStep c s = s) ∧
    (1 < k.txCd → txTickStep c s = s.setCh c { k with txCd := k.txCd - 1 }) ∧
    (k.txCd = 1 → txTickStep c s = State.setCh { s with
        trace := s.trace ++ (if k.txBuf ≠ [] ∨ Config.flushEmpty = true then [.sendFrame k.txBuf c] else []) } c
      { k with txBuf := [], txCd := -1, hunting := true })

/-- R163 (C2, D11; log 24): the receive tick step leaves a channel alone whose active slot is free or ready, and else
counts the active slot down by one and no other slot. -/
def Obligations.ReceiveTickCountsTheActiveSlot : Prop :=
  ∀ (c : Chan) (s : State),
    let k := s.ch c
    (k.act.cd ≤ 0 → rxTickStep c s = s) ∧
    (1 < k.act.cd →
      rxTickStep c s = s.setCh c { k with slots := k.slots.set k.rxCur { k.act with cd := k.act.cd - 1 } })

/-- R163, R164 (D15, D17, D18, D42, D44): when the active frame arrives and its first byte is 0xFF or the channel's
address, the slot becomes ready, the read cursor is 0, hunting is cleared and 3 ticks per byte of end-of-frame countdown
are armed; EXT is set with SYNC_IE, RX in the modes first and all characters, each with one assertion if WR1 bit 0 is
set. -/
def Obligations.ArrivingFrameThatMatchesIsAccepted : Prop :=
  ∀ (c : Chan) (b : Byte) (rest : List Byte) (s : State),
    let k := s.ch c
    k.act.cd = 1 → k.act.data = b :: rest → b = 0xFF ∨ b = k.sdlcAddr →
    let sync := k.wr15.getLsbD 4 = true
    let rx := k.wr1.toNat / 8 % 4 = 1 ∨ k.wr1.toNat / 8 % 4 = 2
    let ai := if k.wr1.getLsbD 0 = true then [Event.assertInterrupt] else []
    rxTickStep c s = State.setCh { s with
        pending := s.pending ||| ((if sync then extBit c else 0) ||| (if rx then rxBit c else 0))
        trace := s.trace ++ ((if sync then ai else []) ++ (if rx then ai else [])) } c
      { k with
        slots := k.slots.set k.rxCur { k.act with cd := 0 }
        rdPtr := 0
        hunting := false
        eofCd := 3 * k.act.len }

/-- R165, R166 (D42): when the active frame arrives and its first byte is neither 0xFF nor the channel's address, the
slot is freed, the cursor advances and the channel hunts; no cause is set, nothing is asserted, the end-of-frame
countdown is unchanged; and where no other slot is ready, no byte is readable. -/
def Obligations.ArrivingFrameThatMismatchesIsDiscarded : Prop :=
  ∀ (c : Chan) (b : Byte) (rest : List Byte) (s : State),
    let k := s.ch c
    k.act.cd = 1 → k.act.data = b :: rest → b ≠ 0xFF → b ≠ k.sdlcAddr →
    rxTickStep c s = s.setCh c
      { k with
        slots := k.slots.set k.rxCur { k.act with cd := -1 }
        rxCur := k.rxCur + 1
        rdPtr := 0
        hunting := true } ∧
    ((∀ i : Fin 4, i ≠ k.rxCur → (k.slots[i]).cd ≠ 0) → ((rxTickStep c s).ch c).unread = 0)

/-- R167, R168, R236 (C6, D16, D17, D38): the end-of-frame tick step does nothing when inactive; on every active tick it
counts down and sets EXT whatever WR15 holds; on the firing tick it also sets `eofPending` and, in every mode but
"disabled", RX; each cause with one assertion if WR1 bit 0 is set. -/
def Obligations.EndOfFrameTickAssertsExternal : Prop :=
  ∀ (c : Chan) (s : State),
    let k := s.ch c
    let rx := k.eofCd = 1 ∧ k.wr1.toNat / 8 % 4 ≠ 0
    let ai := if k.wr1.getLsbD 0 = true then [Event.assertInterrupt] else []
    (k.eofCd = 0 → eofTickStep c s = s) ∧
    (0 < k.eofCd → eofTickStep c s = State.setCh { s with
        pending := s.pending ||| (extBit c ||| (if rx then rxBit c else 0))
        trace := s.trace ++ (ai ++ (if rx then ai else [])) } c
      { k with eofCd := k.eofCd - 1, eofPending := if k.eofCd = 1 then true else k.eofPending })

/-- R167, R281 (D16): while no frame is arriving on the channel, an end-of-frame countdown of n stays active for exactly
n ticks, EXT of the channel is pending after each of them, and the last one sets `eofPending`. -/
def Obligations.EndOfFrameCountdownLastsItsTicks : Prop :=
  ∀ (c : Chan) (n : Nat) (s t : State), (s.ch c).act.cd ≤ 0 → n ≤ (s.ch c).eofCd → AfterTicks n s t →
    (t.ch c).eofCd = (s.ch c).eofCd - n ∧
    (0 < n → t.pending &&& extBit c = extBit c) ∧
    (0 < n → n = (s.ch c).eofCd → (t.ch c).eofPending = true)

/-! ### Whole laws of the receive and the transmit path -/

/-- R170 (C10; D9, D11, D12): a frame delivered to an empty queue with delay d has no readable byte after fewer than d
ticks; after d ticks or more, if its first byte is 0xFF or the address, RR0 bit 0 is 1 and a data read returns that
byte, and if it is neither, no byte is readable. -/
def Obligations.FrameIsReadableAfterItsDelay : Prop :=
  ∀ (c : Chan) (b : Byte) (bs : List Byte) (d n : Nat) (s u t : State), s.Inv → (s.ch c).act.cd = -1 →
    exec (.rxFrame c (b :: bs) (bs.length + 1) d) s = .next u → AfterTicks n u t →
    (n < d → (t.ch c).unread = 0) ∧
    (d ≤ n → (b = 0xFF ∨ b = (s.ch c).sdlcAddr) →
      (∃ w r, exec (.rr0 c) t = .next w ∧ w.returned = some r ∧ r.getLsbD 0 = true) ∧
      (∃ w, exec (.rr8Data c t.ptr) t = .next w ∧ w.returned = some b)) ∧
    (d ≤ n → b ≠ 0xFF → b ≠ (s.ch c).sdlcAddr → (t.ch c).unread = 0)

/-- R195 (D8, D9; P_TX_IDLE_BASE = 0, log 16): m ≥ 1 bytes written from idle, each through the data address or the
control path, with no tick between, give a countdown of 30·m; no tick before the 30·m-th hands over a frame of the
channel; after the 30·m-th exactly one has been handed over, the m bytes in write order, and the transmitter is idle and
empty. -/
def Obligations.WrittenBytesLeaveAsOneFrame : Prop :=
  ∀ (c : Chan) (bs : List Byte) (n : Nat) (s u t : State), bs ≠ [] → (s.ch c).txCd = -1 → (s.ch c).txBuf = [] →
    AfterDataWrites c bs s u → AfterTicks n u t →
    (u.ch c).txCd = 30 * bs.length ∧
    ∃ es, t.trace = s.trace ++ es ∧
      (n < 30 * bs.length → es.filter (Event.isSendOf c) = [] ∧ (t.ch c).txBuf = bs) ∧
      (n = 30 * bs.length → es.filter (Event.isSendOf c) = [.sendFrame bs c] ∧ (t.ch c).txBuf = [] ∧
          (t.ch c).txCd = -1)

/-- R45 (1), R160, R163, R165, R166, R142 (D11, D13, D14; log 24, log 26, log 27): the receive queue is first in, first
out. A frame delivered to the channel is added last when fewer than four wait, and changes no waiting frame otherwise. A
tick in which the oldest frame arrives and mismatches, and the read of its last byte, take the oldest away. Every other
operation leaves the waiting frames as they are. -/
def Obligations.ReceiveQueueIsFirstInFirstOut : Prop :=
  ∀ (i : Instr) (s t : State) (c : Chan), s.Inv → exec i s = .next t →
    let k := s.ch c
    let q := k.queue.map Slot.frame
    let q' := (t.ch c).queue.map Slot.frame
    let takes := (i = .tick ∧ k.act.cd = 1 ∧ k.frameMatches = false) ∨
      ((i = .rr8Ctl c ∨ ∃ p, i = .rr8Data c p) ∧ k.unread = 1)
    (∀ bytes n d, i = .rxFrame c bytes n d →
      q' = if q.length < 4 then q ++ [(n + 3, bytes ++ [Config.crcFill.1, Config.crcFill.2, 0x00])] else q) ∧
    ((∀ bytes n d, i ≠ .rxFrame c bytes n d) → (takes → q' = q.tail) ∧ (¬ takes → q' = q))

/-! ### The other host operations -/

/-- R213 (DCD_IE position D18; D48): `setDCD` with the level the line has does nothing; with another it changes the
line, and with DCD_IE sets EXT of the channel and asserts the line if WR1 bit 0 is set. Nothing else changes. -/
def Obligations.SetDcdRaisesOnChangeOnly : Prop :=
  ∀ (c : Chan) (a : Bool) (s : State),
    let k := s.ch c
    let ie := k.wr15.getLsbD 3 = true
    (a = k.dcd → exec (.setDcd c a) s = .next s) ∧
    (a ≠ k.dcd → exec (.setDcd c a) s = .next (State.setCh { s with
        pending := s.pending ||| (if ie then extBit c else 0)
        trace := s.trace ++ (if ie ∧ k.wr1.getLsbD 0 = true then [.assertInterrupt] else []) } c { k with dcd := a }))

/-- R160, R161 (D12, D13, D30, D31): a frame that meets the host's duties goes into the first free slot from the cursor,
as its bytes, the two filler bytes and 0x00, with its delay; nothing else changes. -/
def Obligations.DeliveredFrameTakesTheFirstFreeSlot : Prop :=
  ∀ (c : Chan) (bytes : List Byte) (n : Nat) (d : Int) (j : Nat) (s : State),
    bytes.length = n → 1 ≤ n → n + 3 ≤ Config.rxSlotBytes → 1 ≤ d → j < 4 →
    let k := s.ch c
    (k.ringSlot j).cd = -1 → (∀ i, i < j → (k.ringSlot i).cd ≠ -1) →
    exec (.rxFrame c bytes n d) s = .next (s.setCh c { k with
      slots := k.slots.set (ringIdx k.rxCur j)
        { cd := d, len := n + 3, data := bytes ++ [Config.crcFill.1, Config.crcFill.2, 0x00] } })

/-- R162, R160 (D12, D30; the event is the model's record, D34, log 3): with every slot occupied a delivered frame is
lost; the device state does not change and the loss is recorded. -/
def Obligations.FrameToFullQueueIsDropped : Prop :=
  ∀ (c : Chan) (bytes : List Byte) (n : Nat) (d : Int) (s : State),
    bytes.length = n → 1 ≤ n → n + 3 ≤ Config.rxSlotBytes → 1 ≤ d → (∀ j, j < 4 → ((s.ch c).ringSlot j).cd ≠ -1) →
    exec (.rxFrame c bytes n d) s = .next { s with trace := s.trace ++ [.rxDropped c] }

/-! ### Rules of the whole machine -/

/-- R71, R82, R210 (D3, D4): every control access but a WR0 write leaves the pointer 0; no data access and no host
operation touches it. -/
def Obligations.PointerIsConsumedByControlAccesses : Prop :=
  ∀ (i : Instr) (s t : State), exec i s = .next t →
    let k := (encode i).1
    (k.getLsbD 7 = false → k.getLsbD 5 = false → (∀ c v, i ≠ .wr0 c v) → t.ptr = 0) ∧
    (k.getLsbD 7 = true ∨ k.getLsbD 5 = true → t.ptr = s.ptr)

/-- R29 to R33, R272 (that WR9 resets nothing is D19): each stored register changes only by its own write. -/
def Obligations.StoredRegistersChangeOnlyByTheirWrite : Prop :=
  ∀ (i : Instr) (s t : State), exec i s = .next t →
    (∀ c, (∀ v, i ≠ .wr1 c v) → (t.ch c).wr1 = (s.ch c).wr1) ∧
    (∀ c, (∀ v, i ≠ .wr15 c v) → (t.ch c).wr15 = (s.ch c).wr15) ∧
    (∀ c, (∀ v, i ≠ .wr6 c v) → (t.ch c).sdlcAddr = (s.ch c).sdlcAddr) ∧
    ((∀ c v, i ≠ .wr2 c v) → t.wr2 = s.wr2) ∧
    ((∀ c v, i ≠ .wr9 c v) → t.wr9 = s.wr9)

/-- R236 (layout D20; conditions D14, D16, D17, D18, D44, D48): the list of places that set a pending bit is complete. A
bit that an operation sets is EXT or RX of a channel, under one of the listed conditions. -/
def Obligations.PendingBitsAreSetOnlyWhereListed : Prop :=
  ∀ (i : Instr) (s t : State), exec i s = .next t →
    (∀ c, s.pending &&& txBit c = 0 → t.pending &&& txBit c = 0) ∧
    (∀ c, s.pending &&& extBit c = 0 → t.pending &&& extBit c ≠ 0 →
      (∃ a, i = .setDcd c a ∧ a ≠ (s.ch c).dcd ∧ (s.ch c).wr15.getLsbD 3 = true) ∨
      ((i = .rr8Ctl c ∨ ∃ p, i = .rr8Data c p) ∧ (s.ch c).unread = 1 ∧ (s.ch c).wr15.getLsbD 7 = true) ∨
      (i = .tick ∧ (0 < (s.ch c).eofCd ∨ ((s.ch c).act.cd = 1 ∧ (s.ch c).frameMatches = true)))) ∧
    (∀ c, s.pending &&& rxBit c = 0 → t.pending &&& rxBit c ≠ 0 →
      ((i = .rr8Ctl c ∨ ∃ p, i = .rr8Data c p) ∧ 2 ≤ (s.ch c).unread ∧ (s.ch c).wr1.toNat / 8 % 4 = 2) ∨
      (i = .tick ∧ (s.ch c).act.cd = 1 ∧ (s.ch c).frameMatches = true ∧
        ((s.ch c).wr1.toNat / 8 % 4 = 1 ∨ (s.ch c).wr1.toNat / 8 % 4 = 2)) ∨
      (i = .tick ∧ (s.ch c).eofCd = 1 ∧ (s.ch c).wr1.toNat / 8 % 4 ≠ 0))

/-- R237: every place that clears pending bits. A bit that an operation clears was cleared by WR0 with command 0b010,
which clears all six and the shadow, or by the vector read on channel B, which clears one bit, the highest-priority one
(R238; P_ACK_BRX_QUIRK = false, D24, log 17). Reading data, changing enables and disabling WR1 clear nothing. -/
def Obligations.PendingBitsAreClearedOnlyByClearOrAcknowledge : Prop :=
  (∀ (i : Instr) (s t : State), exec i s = .next t → s.pending &&& ~~~t.pending ≠ 0 →
    (∃ c v, i = .wr0 c v ∧ v.toNat / 8 % 8 = 2) ∨ i = .rr2B) ∧
  (∀ (c : Chan) (v : Byte) (s t : State), v.toNat / 8 % 8 = 2 → exec (.wr0 c v) s = .next t →
    t.pending = 0 ∧ t.pendingShadow = 0) ∧
  (∀ s t : State, exec .rr2B s = .next t →
    let p := s.pending
    s.pending &&& ~~~t.pending =
      if p.getLsbD 0 then 0b000001 else if p.getLsbD 3 then 0b001000 else if p.getLsbD 5 then 0b100000
      else if p.getLsbD 2 then 0b000100 else 0)

/-- R35: only `setDCD` on a channel changes its DCD line, RR0 bit 3 shows it, and it is high on both channels after
initialization. -/
def Obligations.OnlySetDcdMovesTheDcdLine : Prop :=
  (∀ (i : Instr) (s t : State) (c : Chan), exec i s = .next t → (∀ a, i ≠ .setDcd c a) →
    (t.ch c).dcd = (s.ch c).dcd) ∧
  (∀ (c : Chan) (s : State), ∃ t r, exec (.rr0 c) s = .next t ∧ t.returned = some r ∧ r.getLsbD 3 = (s.ch c).dcd) ∧
  (∀ c, (State.reset.ch c).dcd = true ∧
    ∃ t r, exec (.rr0 c) State.reset = .next t ∧ t.returned = some r ∧ r.getLsbD 3 = true)

/-- R34 (where a flush, a last byte and a framing check happen rests on D6, D9, D11, D14): WR3 with bit 4, a WR0 abort,
the read of the last byte, a transmit flush in a tick and a framing mismatch set hunting, and nothing else does; a
framing match clears it, after a flush of the same tick, and nothing else does. RR0 bit 4 shows it. -/
def Obligations.HuntingChangesOnlyWhereListed : Prop :=
  (∀ (i : Instr) (s t : State) (c : Chan), exec i s = .next t →
    let k := s.ch c
    let clears := i = .tick ∧ k.act.cd = 1 ∧ k.frameMatches = true
    let sets := (∃ v : Byte, i = .wr3 c v ∧ v.getLsbD 4 = true) ∨ (∃ v : Byte, i = .wr0 c v ∧ v.toNat / 8 % 8 = 3) ∨
      ((i = .rr8Ctl c ∨ ∃ p, i = .rr8Data c p) ∧ k.unread = 1) ∨
      (i = .tick ∧ (k.txCd = 1 ∨ (k.act.cd = 1 ∧ k.frameMatches = false)))
    ((t.ch c).hunting = true ↔ ¬ clears ∧ (sets ∨ k.hunting = true))) ∧
  (∀ (c : Chan) (s : State), ∃ t r, exec (.rr0 c) s = .next t ∧ t.returned = some r ∧ r.getLsbD 4 = (s.ch c).hunting)

/-- R43, R234, R235, R58 (D22, D34): operations only append to the trace; a frame is handed over only by a tick or a WR0
write, a drop recorded only by a delivered frame; the line is asserted only by WR15, the vector read, a data read, a
tick or `setDCD`, and only when WR1 bit 0 of some channel is set. -/
def Obligations.EventsComeOnlyFromTheirOperations : Prop :=
  ∀ (i : Instr) (s t : State), exec i s = .next t → ∃ es, t.trace = s.trace ++ es ∧
    (∀ bytes c, .sendFrame bytes c ∈ es → i = .tick ∨ ∃ v, i = .wr0 c v) ∧
    (∀ c, .rxDropped c ∈ es → ∃ bytes n d, i = .rxFrame c bytes n d) ∧
    (.assertInterrupt ∈ es →
      (s.chA.wr1.getLsbD 0 = true ∨ s.chB.wr1.getLsbD 0 = true) ∧
      (i = .tick ∨ i = .rr2B ∨ ∃ c, i = .rr8Ctl c ∨ (∃ p, i = .rr8Data c p) ∨ (∃ v, i = .wr15 c v) ∨ ∃ a,
          i = .setDcd c a))

/-- R196, R190 to R194 (abort D6, latch D7, flush D9): the transmit path raises no interrupt. A data write, a WR0 write
(the abort and the latch reset among them) and a transmit tick step set no cause and assert nothing; no operation sets a
transmit-cause bit (bits 1 and 4, R243, in the layout D20; log 32); RR0 bit 2 is always 1. -/
def Obligations.TransmitPathRaisesNoInterrupt : Prop :=
  (∀ (c : Chan) (p : BitVec 4) (v : Byte) (s t : State),
    exec (.wr8Data c p v) s = .next t ∨ exec (.wr8Ctl c v) s = .next t → t.pending = s.pending ∧ t.trace = s.trace) ∧
  (∀ (c : Chan) (v : Byte) (s : State), ∃ t, exec (.wr0 c v) s = .next t ∧
    t.pending = (if v.toNat / 8 % 8 = 2 then 0 else s.pending) ∧
    ∃ es, t.trace = s.trace ++ es ∧ .assertInterrupt ∉ es) ∧
  (∀ (c : Chan) (s : State), (txTickStep c s).pending = s.pending ∧
    ∃ es, (txTickStep c s).trace = s.trace ++ es ∧ .assertInterrupt ∉ es) ∧
  (∀ (i : Instr) (s t : State), exec i s = .next t →
    (s.pending.getLsbD 1 = false → t.pending.getLsbD 1 = false) ∧ (s.pending.getLsbD 4 = false →
        t.pending.getLsbD 4 = false)) ∧
  (∀ (c : Chan) (s : State), ∃ t r, exec (.rr0 c) s = .next t ∧ t.returned = some r ∧ r.getLsbD 2 = true)

/-- R250, R61: an operation other than a tick changes no field of the channel it does not address. -/
def Obligations.OtherChannelIsUntouched : Prop :=
  ∀ (i : Instr) (s t : State), i ≠ .tick → exec i s = .next t →
    t.ch (opChan (encode i).1).other = s.ch (opChan (encode i).1).other

/-- R36, R214 (D28; log 37): no operation changes CTS, RR0 bit 5 shows it, and it is false after initialization. -/
def Obligations.ClearToSendNeverChanges : Prop :=
  (∀ (i : Instr) (s t : State) (c : Chan), exec i s = .next t → (t.ch c).cts = (s.ch c).cts) ∧
  (∀ (c : Chan) (s : State), ∃ t r, exec (.rr0 c) s = .next t ∧ t.returned = some r ∧ r.getLsbD 5 = (s.ch c).cts) ∧
  (∀ c, (State.reset.ch c).cts = false)

/-- R136, R144: RR3 on channel B, whatever is pending, and RR10 of either channel return 0x00; nothing but the pointer
changes. -/
def Obligations.FixedReadsReturnZero : Prop :=
  ∀ (c : Chan) (s : State),
    exec .rr3B s = .next { s with ptr := 0, returned := some 0x00 } ∧
    exec (.rr10 c) s = .next { s with ptr := 0, returned := some 0x00 }
end

