-- ==== Sys2Proof/Laws/Config.lean ====
section
/-! SUPPORT. The constants of 00_scope.md R5 as numbers, and the bounds of the OPEN parameters of R6. -/

namespace Sys2Proof.Config

@[simp] theorem trailerLen_eq : trailerLen = 3 := rfl
@[simp] theorem txByteTicks_eq : txByteTicks = 30 := rfl
@[simp] theorem eofTicksPerByte_eq : eofTicksPerByte = 3 := rfl
@[simp] theorem broadcastAddr_eq : broadcastAddr = 0xFF := rfl
@[simp] theorem defaultRead_eq : defaultRead = 0xFF := rfl
@[simp] theorem noDataRead_eq : noDataRead = 0x00 := rfl
@[simp] theorem txIdleBase_eq : txIdleBase = 0 := rfl
@[simp] theorem ackBrxQuirk_eq : ackBrxQuirk = false := rfl

/-- R5: there are `NCH` channels, A and B. -/
theorem chan_count : ∃ cs : List Chan, cs.length = nch ∧ cs.Nodup ∧ ∀ c, c ∈ cs :=
  ⟨[.A, .B], by decide, by decide, by intro c; cases c <;> decide⟩

/-- R6: a receive slot holds at least 4 bytes. -/
theorem four_le_rxSlotBytes : 4 ≤ rxSlotBytes := Nat.le_add_left _ _

/-- R6: a transmit buffer holds at least 1 byte. -/
theorem one_le_txBufBytes : 1 ≤ txBufBytes := Nat.le_add_left _ _

end Sys2Proof.Config
end

