-- ==== Sys2Proof/Laws/State.lean ====
section
/-! SUPPORT. The small lemmas of State and its accessors: one per field per update. -/

namespace Sys2Proof.Machine

/-! ### Channel access -/

@[simp] theorem ch_A (s : State) : s.ch .A = s.chA := rfl
@[simp] theorem ch_B (s : State) : s.ch .B = s.chB := rfl

@[simp] theorem ch_setCh_same (s : State) (c : Chan) (k : Channel) : (s.setCh c k).ch c = k := by cases c <;> rfl

@[simp] theorem ch_setCh_other (s : State) (c : Chan) (k : Channel) : (s.setCh c k).ch c.other = s.ch c.other := by
  cases c <;> rfl

@[simp] theorem ch_other_setCh (s : State) (c : Chan) (k : Channel) : (s.setCh c.other k).ch c = s.ch c := by
  cases c <;> rfl

theorem ch_setCh (s : State) (c d : Chan) (k : Channel) : (s.setCh c k).ch d = if d = c then k else s.ch d := by
  cases c <;> cases d <;> rfl

@[simp] theorem setCh_setCh_same (s : State) (c : Chan) (k l : Channel) : (s.setCh c k).setCh c l = s.setCh c l := by
  cases c <;> rfl

@[simp] theorem setCh_ch (s : State) (c : Chan) : s.setCh c (s.ch c) = s := by cases c <;> rfl

theorem setCh_comm (s : State) (c : Chan) (k l : Channel) :
    (s.setCh c k).setCh c.other l = (s.setCh c.other l).setCh c k := by cases c <;> rfl

@[simp] theorem other_other (c : Chan) : c.other.other = c := by cases c <;> rfl

@[simp] theorem other_ne (c : Chan) : c.other ≠ c := by cases c <;> decide

@[simp] theorem ne_other (c : Chan) : c ≠ c.other := by cases c <;> decide

theorem eq_or_eq_other (c d : Chan) : d = c ∨ d = c.other := by cases c <;> cases d <;> decide

/-! ### Fields of `setCh` -/

@[simp] theorem setCh_ptr (s : State) (c : Chan) (k : Channel) : (s.setCh c k).ptr = s.ptr := by cases c <;> rfl
@[simp] theorem setCh_pending (s : State) (c : Chan) (k : Channel) : (s.setCh c k).pending = s.pending := by
  cases c <;> rfl
@[simp] theorem setCh_pendingShadow (s : State) (c : Chan) (k : Channel) :
    (s.setCh c k).pendingShadow = s.pendingShadow := by cases c <;> rfl
@[simp] theorem setCh_wr2 (s : State) (c : Chan) (k : Channel) : (s.setCh c k).wr2 = s.wr2 := by cases c <;> rfl
@[simp] theorem setCh_wr9 (s : State) (c : Chan) (k : Channel) : (s.setCh c k).wr9 = s.wr9 := by cases c <;> rfl
@[simp] theorem setCh_trace (s : State) (c : Chan) (k : Channel) : (s.setCh c k).trace = s.trace := by cases c <;> rfl
@[simp] theorem setCh_calls (s : State) (c : Chan) (k : Channel) : (s.setCh c k).calls = s.calls := by cases c <;> rfl
@[simp] theorem setCh_returned (s : State) (c : Chan) (k : Channel) : (s.setCh c k).returned = s.returned := by
  cases c <;> rfl
@[simp] theorem setCh_ticks (s : State) (c : Chan) (k : Channel) : (s.setCh c k).ticks = s.ticks := by cases c <;> rfl

/-! ### A channel of an updated state -/

@[simp] theorem ch_ptr (s : State) (c : Chan) (x : BitVec 4) : State.ch { s with ptr := x } c = s.ch c := by
  cases c <;> rfl
@[simp] theorem ch_pending (s : State) (c : Chan) (x : BitVec Config.pendWidth) :
    State.ch { s with pending := x } c = s.ch c := by cases c <;> rfl
@[simp] theorem ch_pendingShadow (s : State) (c : Chan) (x y : BitVec Config.pendWidth) :
    State.ch { s with pending := x, pendingShadow := y } c = s.ch c := by cases c <;> rfl
@[simp] theorem ch_wr2 (s : State) (c : Chan) (x : Byte) : State.ch { s with wr2 := x } c = s.ch c := by cases c <;> rfl
@[simp] theorem ch_wr9 (s : State) (c : Chan) (x : Byte) : State.ch { s with wr9 := x } c = s.ch c := by cases c <;> rfl
@[simp] theorem ch_trace (s : State) (c : Chan) (x : List Event) : State.ch { s with trace := x } c = s.ch c := by
  cases c <;> rfl
@[simp] theorem ch_returned (s : State) (c : Chan) (x : Option Byte) :
    State.ch { s with returned := x } c = s.ch c := by
  cases c <;> rfl
@[simp] theorem ch_ticks (s : State) (c : Chan) (x : Nat) : State.ch { s with ticks := x } c = s.ch c := by
  cases c <;> rfl

/-! ### `consumePtr`, `returnByte`, `emit`, `accept` -/

@[simp] theorem ch_consumePtr (s : State) (c : Chan) : s.consumePtr.ch c = s.ch c := by cases c <;> rfl
@[simp] theorem consumePtr_ptr (s : State) : s.consumePtr.ptr = 0 := rfl
@[simp] theorem consumePtr_pending (s : State) : s.consumePtr.pending = s.pending := rfl
@[simp] theorem consumePtr_pendingShadow (s : State) : s.consumePtr.pendingShadow = s.pendingShadow := rfl
@[simp] theorem consumePtr_wr2 (s : State) : s.consumePtr.wr2 = s.wr2 := rfl
@[simp] theorem consumePtr_wr9 (s : State) : s.consumePtr.wr9 = s.wr9 := rfl
@[simp] theorem consumePtr_trace (s : State) : s.consumePtr.trace = s.trace := rfl
@[simp] theorem consumePtr_calls (s : State) : s.consumePtr.calls = s.calls := rfl
@[simp] theorem consumePtr_returned (s : State) : s.consumePtr.returned = s.returned := rfl
@[simp] theorem consumePtr_ticks (s : State) : s.consumePtr.ticks = s.ticks := rfl

@[simp] theorem ch_returnByte (s : State) (c : Chan) (v : Byte) : (s.returnByte v).ch c = s.ch c := by cases c <;> rfl
@[simp] theorem returnByte_ptr (s : State) (v : Byte) : (s.returnByte v).ptr = s.ptr := rfl
@[simp] theorem returnByte_pending (s : State) (v : Byte) : (s.returnByte v).pending = s.pending := rfl
@[simp] theorem returnByte_pendingShadow (s : State) (v : Byte) :
    (s.returnByte v).pendingShadow = s.pendingShadow := rfl
@[simp] theorem returnByte_wr2 (s : State) (v : Byte) : (s.returnByte v).wr2 = s.wr2 := rfl
@[simp] theorem returnByte_wr9 (s : State) (v : Byte) : (s.returnByte v).wr9 = s.wr9 := rfl
@[simp] theorem returnByte_trace (s : State) (v : Byte) : (s.returnByte v).trace = s.trace := rfl
@[simp] theorem returnByte_calls (s : State) (v : Byte) : (s.returnByte v).calls = s.calls := rfl
@[simp] theorem returnByte_returned (s : State) (v : Byte) : (s.returnByte v).returned = some v := rfl
@[simp] theorem returnByte_ticks (s : State) (v : Byte) : (s.returnByte v).ticks = s.ticks := rfl

@[simp] theorem ch_accept (s : State) (c : Chan) (rest : List HostCall) : (s.accept rest).ch c = s.ch c := by
  cases c <;> rfl
@[simp] theorem accept_calls (s : State) (rest : List HostCall) : (s.accept rest).calls = rest := rfl
@[simp] theorem accept_returned (s : State) (rest : List HostCall) : (s.accept rest).returned = none := rfl
@[simp] theorem accept_pending (s : State) (rest : List HostCall) : (s.accept rest).pending = s.pending := rfl
@[simp] theorem accept_trace (s : State) (rest : List HostCall) : (s.accept rest).trace = s.trace := rfl

/-! ### Effects

Every device operation on one channel replaces that channel, sets pending bits and appends events. -/

/-- Replaces channel `c` by `k`, sets the pending bits `bits`, appends the events `es`. -/
def State.effect (s : State) (c : Chan) (k : Channel) (bits : BitVec Config.pendWidth) (es : List Event) : State :=
  State.setCh { s with pending := s.pending ||| bits, trace := s.trace ++ es } c k

@[simp] theorem ch_effect_same (s : State) (c : Chan) (k : Channel) (b : BitVec Config.pendWidth) (es : List Event) :
    (s.effect c k b es).ch c = k := by cases c <;> rfl
@[simp] theorem ch_effect_other (s : State) (c : Chan) (k : Channel) (b : BitVec Config.pendWidth) (es : List Event) :
    (s.effect c k b es).ch c.other = s.ch c.other := by cases c <;> rfl
@[simp] theorem ch_other_effect (s : State) (c : Chan) (k : Channel) (b : BitVec Config.pendWidth) (es : List Event) :
    (s.effect c.other k b es).ch c = s.ch c := by cases c <;> rfl
@[simp] theorem effect_ptr (s : State) (c : Chan) (k : Channel) (b : BitVec Config.pendWidth) (es : List Event) :
    (s.effect c k b es).ptr = s.ptr := by cases c <;> rfl
@[simp] theorem effect_pending (s : State) (c : Chan) (k : Channel) (b : BitVec Config.pendWidth) (es : List Event) :
    (s.effect c k b es).pending = s.pending ||| b := by cases c <;> rfl
@[simp] theorem effect_pendingShadow (s : State) (c : Chan) (k : Channel) (b : BitVec Config.pendWidth)
    (es : List Event) : (s.effect c k b es).pendingShadow = s.pendingShadow := by cases c <;> rfl
@[simp] theorem effect_wr2 (s : State) (c : Chan) (k : Channel) (b : BitVec Config.pendWidth) (es : List Event) :
    (s.effect c k b es).wr2 = s.wr2 := by cases c <;> rfl
@[simp] theorem effect_wr9 (s : State) (c : Chan) (k : Channel) (b : BitVec Config.pendWidth) (es : List Event) :
    (s.effect c k b es).wr9 = s.wr9 := by cases c <;> rfl
@[simp] theorem effect_trace (s : State) (c : Chan) (k : Channel) (b : BitVec Config.pendWidth) (es : List Event) :
    (s.effect c k b es).trace = s.trace ++ es := by cases c <;> rfl
@[simp] theorem effect_calls (s : State) (c : Chan) (k : Channel) (b : BitVec Config.pendWidth) (es : List Event) :
    (s.effect c k b es).calls = s.calls := by cases c <;> rfl
@[simp] theorem effect_returned (s : State) (c : Chan) (k : Channel) (b : BitVec Config.pendWidth) (es : List Event) :
    (s.effect c k b es).returned = s.returned := by cases c <;> rfl
@[simp] theorem effect_ticks (s : State) (c : Chan) (k : Channel) (b : BitVec Config.pendWidth) (es : List Event) :
    (s.effect c k b es).ticks = s.ticks := by cases c <;> rfl

@[simp] theorem effect_effect (s : State) (c : Chan) (k l : Channel) (a b : BitVec Config.pendWidth)
    (es fs : List Event) : (s.effect c k a es).effect c l b fs = s.effect c l (a ||| b) (es ++ fs) := by
  cases c <;> simp [State.effect, State.setCh, BitVec.or_assoc]

@[simp] theorem setCh_effect (s : State) (c : Chan) (k l : Channel) (b : BitVec Config.pendWidth) (es : List Event) :
    (s.effect c k b es).setCh c l = s.effect c l b es := by cases c <;> rfl

@[simp] theorem effect_setCh (s : State) (c : Chan) (k l : Channel) (b : BitVec Config.pendWidth) (es : List Event) :
    (s.setCh c k).effect c l b es = s.effect c l b es := by cases c <;> rfl

@[simp] theorem effect_nothing (s : State) (c : Chan) : s.effect c (s.ch c) 0#Config.pendWidth [] = s := by
  cases c <;> simp [State.effect, State.setCh]

theorem setCh_eq_effect (s : State) (c : Chan) (k : Channel) : s.setCh c k = s.effect c k 0#Config.pendWidth [] := by
  cases c <;> simp [State.effect, State.setCh]

/-- Two states with the same two channels and the same other fields are equal. -/
theorem state_ext {s t : State} (c : Chan) (h1 : s.ch c = t.ch c) (h2 : s.ch c.other = t.ch c.other)
    (hp : s.ptr = t.ptr) (hq : s.pending = t.pending) (hs : s.pendingShadow = t.pendingShadow) (hw : s.wr2 = t.wr2)
    (h9 : s.wr9 = t.wr9) (ht : s.trace = t.trace) (hc : s.calls = t.calls) (hr : s.returned = t.returned)
    (hk : s.ticks = t.ticks) : s = t := by
  cases s; cases t; cases c <;> simp_all [State.ch, Chan.other]

end Sys2Proof.Machine
end

