-- ==== Sys2Proof/Laws/Ops.lean ====
section
/-! SUPPORT. What the shared operations can do, each said once, as an effect on one channel: raise, flush, the three tick
steps, the framing check, the data read, the arrival of a frame. -/

namespace Sys2Proof.Machine

/-! ### Interrupts -/

/-- The event of a raise on a channel with this WR1 while some cause is pending. -/
def gateEvents (wr1 : Byte) : List Event := if wr1Gate wr1 = true then [.assertInterrupt] else []

/-- R234: `IntRaise` writes no state but the trace. -/
theorem intRaise_eq (c : Chan) (s : State) :
    intRaise c s = { s with trace := s.trace ++ if s.pending ≠ 0 then gateEvents (s.ch c).wr1 else [] } := by
  unfold intRaise gateEvents State.emit
  by_cases h : wr1Gate (s.ch c).wr1 = true <;> by_cases h' : s.pending = 0
  · rw [if_neg (fun x => x.2 h'), if_neg (not_not_intro h'), List.append_nil]
  · rw [if_pos ⟨h, h'⟩, if_pos h', if_pos h]
  · rw [if_neg (fun x => x.2 h'), if_neg (not_not_intro h'), List.append_nil]
  · rw [if_neg (fun x => h x.1), if_pos h', if_neg h, List.append_nil]

theorem or_ne_zero {a b : BitVec Config.pendWidth} (h : b ≠ 0) : a ||| b ≠ 0 := by
  revert a b; decide

theorem extBit_ne_zero (c : Chan) : extBit c ≠ 0 := by cases c <;> decide
theorem rxBit_ne_zero (c : Chan) : rxBit c ≠ 0 := by cases c <;> decide

/-- R236: setting a cause sets its bits and emits one assertion if the gate is open. -/
theorem raiseCause_eq (c : Chan) (s : State) {b : BitVec Config.pendWidth} (h : b ≠ 0) :
    raiseCause b c s = s.effect c (s.ch c) b (gateEvents (s.ch c).wr1) := by
  have h1 := or_ne_zero (a := s.pending) h
  unfold raiseCause
  rw [intRaise_eq, if_pos h1]
  cases c <;> rfl

theorem raiseExt_eq (c : Chan) (s : State) :
    raiseCause (extBit c) c s = s.effect c (s.ch c) (extBit c) (gateEvents (s.ch c).wr1) :=
  raiseCause_eq c s (extBit_ne_zero c)

theorem raiseRx_eq (c : Chan) (s : State) :
    raiseCause (rxBit c) c s = s.effect c (s.ch c) (rxBit c) (gateEvents (s.ch c).wr1) :=
  raiseCause_eq c s (rxBit_ne_zero c)

/-! ### Transmit -/

/-- The events of a flush. -/
def flushEvents (c : Chan) (k : Channel) : List Event := if k.flushSends = true then [.sendFrame k.txBuf c] else []

/-- R191: a flush empties and idles the transmitter, sets hunting, and hands over the buffer. -/
theorem flush_eq (c : Chan) (s : State) : flush c s = s.effect c (s.ch c).flushed 0 (flushEvents c (s.ch c)) := by
  unfold flush flushEvents State.emit
  by_cases h : (s.ch c).flushSends = true <;> cases c <;> simp_all [State.effect, State.setCh]

/-- R192: the channel after its transmit tick step. -/
def Channel.txTicked (k : Channel) : Channel :=
  if 0 < k.txCd then if k.txCd = 1 then k.flushed else { k with txCd := k.txCd - 1 } else k

/-- R192: the events of a transmit tick step. -/
def txTickEvents (c : Chan) (k : Channel) : List Event := if k.txCd = 1 then flushEvents c k else []

theorem txTickStep_eq (c : Chan) (s : State) :
    txTickStep c s = s.effect c (s.ch c).txTicked 0 (txTickEvents c (s.ch c)) := by
  unfold txTickStep Channel.txTicked txTickEvents
  by_cases h : 0 < (s.ch c).txCd
  · by_cases h1 : (s.ch c).txCd = 1
    · simp [h1, flush_eq, Channel.flushed, flushEvents, Channel.flushSends]
    · have h2 : ¬ (s.ch c).txCd - 1 = 0 := by omega
      simp [h, h1, h2, setCh_eq_effect]
  · have h1 : ¬ (s.ch c).txCd = 1 := by omega
    simp [h, h1]

/-! ### Receive -/

/-- R164: the channel after an accepted frame. -/
def Channel.accepted (k : Channel) : Channel :=
  { k with rdPtr := 0, hunting := false, eofCd := Config.eofTicksPerByte * k.act.len }

/-- R164: the pending bits of an accepted frame. -/
def acceptBits (c : Chan) (k : Channel) : BitVec Config.pendWidth :=
  (if syncEnabled k.wr15 = true then extBit c else 0) ||| (if firstOrAll k.wr1 = true then rxBit c else 0)

/-- R164: the events of an accepted frame. -/
def acceptEvents (k : Channel) : List Event :=
  (if syncEnabled k.wr15 = true then gateEvents k.wr1 else []) ++ (if firstOrAll k.wr1 = true
      then gateEvents k.wr1 else [])

theorem frameAccept_eq (c : Chan) (s : State) :
    frameAccept c s = s.effect c (s.ch c).accepted (acceptBits c (s.ch c)) (acceptEvents (s.ch c)) := by
  unfold frameAccept acceptBits acceptEvents
  by_cases h1 : syncEnabled (s.ch c).wr15 = true <;> by_cases h2 : firstOrAll (s.ch c).wr1 = true <;>
    simp [h1, h2, raiseExt_eq, raiseRx_eq, Channel.accepted, Channel.act, setCh_eq_effect (k := { s.ch c with rdPtr := 0 })]

/-- R165: the channel after a rejected frame. -/
def Channel.rejected (k : Channel) : Channel := { k.releaseActive with hunting := true }

theorem frameReject_eq (c : Chan) (s : State) : frameReject c s = s.effect c (s.ch c).rejected 0 [] := by
  simp [frameReject, setCh_eq_effect, Channel.rejected]

@[simp] theorem act_setAct (k : Channel) (x : Slot) : (k.setAct x).act = x := by
  simp [Channel.setAct, Channel.act]

/-- R163: the channel after its receive tick step. -/
def Channel.rxTicked (k : Channel) : Channel :=
  if 0 < k.act.cd then
    if k.act.cd = 1 then if k.frameMatches = true then k.countedDown.accepted else k.countedDown.rejected
    else k.countedDown
  else k

/-- R163, R164: the frame arrives in this tick and is accepted. -/
def Channel.accepts (k : Channel) : Bool := decide (k.act.cd = 1) && k.frameMatches

/-- R163: the pending bits of a receive tick step. -/
def rxTickBits (c : Chan) (k : Channel) : BitVec Config.pendWidth := if k.accepts = true then acceptBits c k else 0

/-- R163: the events of a receive tick step. -/
def rxTickEvents (k : Channel) : List Event := if k.accepts = true then acceptEvents k else []

@[simp] theorem frameMatches_countedDown (k : Channel) : k.countedDown.frameMatches = k.frameMatches := by
  simp [Channel.frameMatches, Channel.countedDown]; rfl

theorem rxTickStep_eq (c : Chan) (s : State) :
    rxTickStep c s = s.effect c (s.ch c).rxTicked (rxTickBits c (s.ch c)) (rxTickEvents (s.ch c)) := by
  unfold rxTickStep Channel.rxTicked rxTickBits rxTickEvents Channel.accepts
  by_cases h : 0 < (s.ch c).act.cd
  · by_cases h1 : (s.ch c).act.cd = 1
    · have e1 : acceptBits c (s.ch c).countedDown = acceptBits c (s.ch c) := rfl
      have e2 : acceptEvents (s.ch c).countedDown = acceptEvents (s.ch c) := rfl
      by_cases hm : (s.ch c).frameMatches = true
      · simp [h1, hm, framingCheck, frameAccept_eq, e1, e2]
      · simp [h1, hm, framingCheck, frameReject_eq]
    · have h2 : ¬ (s.ch c).act.cd - 1 = 0 := by omega
      simp [h, h1, h2, setCh_eq_effect]
  · have h1 : ¬ (s.ch c).act.cd = 1 := by omega
    simp [h, h1]

/-! ### End of frame -/

/-- R167, R168: the channel after its end-of-frame tick step. -/
def Channel.eofTicked (k : Channel) : Channel :=
  if 0 < k.eofCd then { k with eofCd := k.eofCd - 1, eofPending := if k.eofCd = 1 then true else k.eofPending } else k

/-- R167, R168: the pending bits of an end-of-frame tick step. -/
def eofTickBits (c : Chan) (k : Channel) : BitVec Config.pendWidth :=
  if 0 < k.eofCd then (if k.eofCd = 1 ∧ specialCond k.wr1 = true then rxBit c else 0) ||| extBit c else 0

/-- R167, R168: the events of an end-of-frame tick step. -/
def eofTickEvents (k : Channel) : List Event :=
  if 0 < k.eofCd then (if k.eofCd = 1 ∧ specialCond k.wr1 = true
      then gateEvents k.wr1 else []) ++ gateEvents k.wr1 else []

theorem eofTickStep_eq (c : Chan) (s : State) :
    eofTickStep c s = s.effect c (s.ch c).eofTicked (eofTickBits c (s.ch c)) (eofTickEvents (s.ch c)) := by
  unfold eofTickStep Channel.eofTicked eofTickBits eofTickEvents
  by_cases h : 0 < (s.ch c).eofCd
  · by_cases h1 : (s.ch c).eofCd = 1
    · by_cases h2 : specialCond (s.ch c).wr1 = true <;>
        simp [h1, h2, eofFire, raiseExt_eq, raiseRx_eq, setCh_eq_effect]
    · have h2 : ¬ (s.ch c).eofCd - 1 = 0 := by omega
      simp [h, h1, h2, raiseExt_eq]
  · simp [h]

/-! ### The tick of a channel -/

/-- R211: the channel after its three steps. -/
def Channel.ticked (k : Channel) : Channel := k.txTicked.rxTicked.eofTicked

/-- R211: the pending bits of its three steps. -/
def tickBits (c : Chan) (k : Channel) : BitVec Config.pendWidth :=
  rxTickBits c k.txTicked ||| eofTickBits c k.txTicked.rxTicked

/-- R211: the events of its three steps. -/
def tickEvents (c : Chan) (k : Channel) : List Event :=
  txTickEvents c k ++ rxTickEvents k.txTicked ++ eofTickEvents k.txTicked.rxTicked

/-- R211: a channel's tick depends on that channel alone. -/
theorem tickChan_eq (c : Chan) (s : State) :
    tickChan c s = s.effect c (s.ch c).ticked (tickBits c (s.ch c)) (tickEvents c (s.ch c)) := by
  simp [tickChan, txTickStep_eq, rxTickStep_eq, eofTickStep_eq, Channel.ticked, tickBits, tickEvents]

/-! ### The data read -/

/-- R142: the channel after a byte is popped. -/
def Channel.popped (k : Channel) : Channel :=
  if k.rdPtr + 1 < k.act.len then { k with rdPtr := k.rdPtr + 1 }
  else Channel.releaseActive { k with rdPtr := k.rdPtr + 1, hunting := true }

/-- R142: the cause a pop sets. -/
def popBits (c : Chan) (k : Channel) : BitVec Config.pendWidth :=
  if k.rdPtr + 1 < k.act.len then if allChars k.wr1 = true then rxBit c else 0
  else if breakEnabled k.wr15 = true then extBit c else 0

/-- R142: the events of a pop. -/
def popEvents (k : Channel) : List Event :=
  if k.rdPtr + 1 < k.act.len then if allChars k.wr1 = true then gateEvents k.wr1 else []
  else if breakEnabled k.wr15 = true then gateEvents k.wr1 else []

/-- R142: a data read with no byte available. -/
theorem dataRead_empty (c : Chan) (s : State) (h : (s.ch c).unread = 0) :
    dataRead c s = s.returnByte Config.noDataRead := by simp [dataRead, h]

/-- R142: a data read that pops a byte. -/
theorem dataRead_pop (c : Chan) (s : State) (h : (s.ch c).unread ≠ 0) :
    dataRead c s =
      (s.effect c (s.ch c).popped (popBits c (s.ch c)) (popEvents (s.ch c))).returnByte (s.ch c).nextByte := by
  unfold dataRead Channel.popped popBits popEvents
  by_cases h1 : (s.ch c).rdPtr + 1 < (s.ch c).act.len
  · by_cases h2 : allChars (s.ch c).wr1 = true <;>
      simp [h, h1, h2, popInner, raiseRx_eq, setCh_eq_effect]
  · by_cases h2 : breakEnabled (s.ch c).wr15 = true <;>
      simp [h, h1, h2, popLast, raiseExt_eq, setCh_eq_effect]

/-! ### The other operations -/

/-- R213: the channel after `setDCD`. -/
theorem setDcdLine_eq (c : Chan) (a : Bool) (s : State) (h : a ≠ (s.ch c).dcd) :
    setDcdLine c a s =
      s.effect c { s.ch c with dcd := a } (if dcdEnabled (s.ch c).wr15 = true then extBit c else 0)
        (if dcdEnabled (s.ch c).wr15 = true then gateEvents (s.ch c).wr1 else []) := by
  unfold setDcdLine
  by_cases h1 : dcdEnabled (s.ch c).wr15 = true <;> simp [h, h1, raiseExt_eq, setCh_eq_effect]

theorem setDcdLine_same (c : Chan) (a : Bool) (s : State) (h : a = (s.ch c).dcd) : setDcdLine c a s = s := by
  simp [setDcdLine, h]

/-- R190: an append is refused exactly when the buffer is full, and else changes only its channel. -/
theorem txAppend_eq (c : Chan) (v : Byte) (s : State) (h : (s.ch c).txBuf.length ≠ Config.txBufBytes) :
    txAppend c v s = .next (s.effect c ((s.ch c).txPush Config.txIdleBase v) 0 []) := by
  simp [txAppend, h, setCh_eq_effect]

/-- R242: the re-raise writes no state but the trace. -/
theorem reRaise_eq (c : Chan) (s : State) :
    reRaise c s =
      { s with trace := s.trace ++ if s.pending &&& chanBits c ≠ 0 then gateEvents (s.ch c).wr1 else [] } := by
  unfold reRaise
  by_cases h : s.pending &&& chanBits c = 0
  · rw [if_neg (not_not_intro h), if_neg (not_not_intro h), List.append_nil]
  · have h1 : s.pending ≠ 0 := by rintro h0; simp [h0] at h
    rw [if_pos h, if_pos h, intRaise_eq, if_pos h1]

/-- R241, R242: the acknowledge changes the pending vector, the trace and the returned byte, nothing else. -/
theorem acknowledge_eq (q : Bool) (s : State) :
    acknowledge q s =
      { s with
        pending := ackClear q s.pending,
        returned := some (vectorBuild s.wr2 s.wr9 (causeCode (highestPending s.pending))),
        trace := s.trace ++ ((if ackClear q s.pending &&& chanBits .A ≠ 0 then gateEvents s.chA.wr1 else []) ++
          if ackClear q s.pending &&& chanBits .B ≠ 0 then gateEvents s.chB.wr1 else []) } := by
  simp [acknowledge, reRaise_eq, State.returnByte, State.ch]

/-- R210, R212: a tick is the effect of one channel after the other. -/
theorem tickDevice_eq (s : State) :
    tickDevice s =
      ((State.effect { s with ticks := s.ticks + 1 } (tickFirst s.ticks) (s.ch (tickFirst s.ticks)).ticked
          (tickBits (tickFirst s.ticks) (s.ch (tickFirst s.ticks)))
          (tickEvents (tickFirst s.ticks) (s.ch (tickFirst s.ticks)))).effect
        (tickFirst s.ticks).other (s.ch (tickFirst s.ticks).other).ticked
        (tickBits (tickFirst s.ticks).other (s.ch (tickFirst s.ticks).other))
        (tickEvents (tickFirst s.ticks).other (s.ch (tickFirst s.ticks).other))) := by
  simp [tickDevice, tickFrom, tickChan_eq]

end Sys2Proof.Machine
end

