-- ==== Sys2Proof/Laws/Channel.lean ====
section
/-! SUPPORT. Fields and predicates as arithmetic, the fields each channel update leaves, and the events each step
emits. -/

namespace Sys2Proof.Machine

/-! ### Fields as arithmetic -/

/-- R78: the fields of a WR0 byte. -/
theorem wr0_fields (v : Byte) : (wr0Ptr v).toNat = (if v.toNat / 8 % 8 = 1 then 8 + v.toNat % 8 else v.toNat % 8) ∧
   (wr0Cmd v = 0b010 ↔ v.toNat / 8 % 8 = 2) ∧ (wr0Cmd v = 0b011 ↔ v.toNat / 8 % 8 = 3) ∧
       (wr0Crc v = 0b11 ↔ v.toNat / 64 = 3) := by
  revert v; decide

/-- R104: bit 4 of a WR3 byte. -/
theorem wr3Hunt_iff (v : Byte) : wr3Hunt v = true ↔ v.toNat / 16 % 2 = 1 := by revert v; decide

/-- R31. -/
theorem allChars_iff (v : Byte) : allChars v = true ↔ v.toNat / 8 % 4 = 2 := by revert v; decide

/-- R31. -/
theorem firstOrAll_iff (v : Byte) : firstOrAll v = true ↔ (v.toNat / 8 % 4 = 1 ∨ v.toNat / 8 % 4 = 2) := by
    revert v; decide

/-- R31. -/
theorem specialCond_iff (v : Byte) : specialCond v = true ↔ v.toNat / 8 % 4 ≠ 0 := by revert v; decide

/-- R80: the WR0 byte n selects index n and does nothing else. -/
theorem wr0_bits : ∀ n : BitVec 4, wr0Ptr (n.setWidth 8) = n ∧ wr0Cmd (n.setWidth 8) ≠ 0b010 ∧
    wr0Cmd (n.setWidth 8) ≠ 0b011 ∧ wr0Crc (n.setWidth 8) ≠ 0b11 := by decide

/-- R131: the bits of RR0. -/
theorem rr0Value_bits (k : Channel) : let r := rr0Value k
   r.getLsbD 0 = decide (0 < k.unread) ∧ r.getLsbD 1 = false ∧ r.getLsbD 2 = true ∧ r.getLsbD 3 = k.dcd ∧
       r.getLsbD 4 = k.hunting ∧ r.getLsbD 5 = k.cts ∧
   r.getLsbD 6 = decide (k.txCd = -1) ∧
       r.getLsbD 7 = (if k.activeReady then decide (k.unread ≤ 2) else Config.rr0AbortWhenEmpty) := by
  unfold rr0Value
  have h : ∀ b7 b6 b5 b4 b3 b2 b1 b0 : Bool,
     (let r : Byte := BitVec.ofBool b7 ++ BitVec.ofBool b6 ++ BitVec.ofBool b5 ++ BitVec.ofBool b4 ++ BitVec.ofBool b3 ++ BitVec.ofBool b2 ++ BitVec.ofBool b1 ++ BitVec.ofBool b0
      r.getLsbD 0 = b0 ∧ r.getLsbD 1 = b1 ∧ r.getLsbD 2 = b2 ∧ r.getLsbD 3 = b3 ∧ r.getLsbD 4 = b4 ∧
          r.getLsbD 5 = b5 ∧ r.getLsbD 6 = b6 ∧ r.getLsbD 7 = b7) := by decide
  exact h _ _ _ _ _ _ _ _

/-- R40: unread bytes are those of a ready slot. -/
theorem unread_pos {k : Channel} {m : Nat} (h : k.unread = m) (hm : m ≠ 0) : k.act.cd = 0 ∧
    k.act.len - k.rdPtr = m := by
  unfold Channel.unread Channel.activeReady at h
  by_cases h0 : k.act.cd = 0 <;> simp [h0] at h
  · exact ⟨h0, h⟩
  · omega

/-- R39: the next slot. -/
theorem ringIdx_one (i : Fin Config.noRxbuf) : ringIdx i 1 = i + 1 := by revert i; decide

/-- R169: the host duties. -/
theorem frameDuty_iff (bytes : List Byte) (n : Nat) (d : Int) : frameDuty bytes n d = true ↔ (bytes.length = n ∧
    1 ≤ n ∧ n + 3 ≤ Config.rxSlotBytes ∧ 1 ≤ d) := by
  simp only [frameDuty, Bool.and_eq_true, decide_eq_true_eq, beq_iff_eq]; simp only [Config.trailerLen_eq]; tauto

/-- R241 (D24), R238. -/
theorem ackClear_eq : ∀ p : BitVec 6,
    ackClear false p = (if p.getLsbD 0 then p &&& 0b111110 else if p.getLsbD 3 then p &&& 0b110111
      else if p.getLsbD 5 then p &&& 0b011111 else if p.getLsbD 2 then p &&& 0b111011 else p) := by decide

/-- R238, R239 (D21). -/
theorem code_eq : ∀ p : BitVec 6,
    (causeCode (highestPending p)) = BitVec.ofNat 3 (if p.getLsbD 0 then 1 else if p.getLsbD 3
        then 5 else if p.getLsbD 5 then 6 else if p.getLsbD 2 then 2 else 3) := by decide

/-- R240 (D21), at each offset. -/
theorem vector_eq : ∀ (w2 : Byte) (n : Fin 8),
    ((w2 &&& ~~~((0b111 : Byte) <<< 4)) ||| ((BitVec.ofNat 3 n).setWidth 8 <<< 4)) =
        (w2 &&& 0x8F) ||| BitVec.ofNat 8 (16 * n)
  ∧ ((w2 &&& ~~~((0b111 : Byte) <<< 1)) ||| ((BitVec.ofNat 3 n).setWidth 8 <<< 1)) =
      (w2 &&& 0xF1) ||| BitVec.ofNat 8 (2 * n) := by decide

/-- R240 (D21, D19). -/
theorem vectorBuild_eq (w2 w9 : Byte) (n : Nat) (h : n < 8) :
    vectorBuild w2 w9 (BitVec.ofNat 3 n) = if w9.getLsbD 4 then (w2 &&& 0x8F) ||| BitVec.ofNat 8 (16 * n)
      else (w2 &&& 0xF1) ||| BitVec.ofNat 8 (2 * n) := by
  obtain ⟨a, b⟩ := vector_eq w2 ⟨n, h⟩
  unfold vectorBuild wr9High
  cases w9.getLsbD 4
  · exact b
  · exact a

/-! ### Fields left alone -/

theorem txTicked_act (k : Channel) : k.txTicked.act = k.act := by
    unfold Channel.txTicked Channel.flushed; split_ifs <;> rfl

theorem txTicked_facts (k : Channel) : k.txTicked.dcd = k.dcd ∧ k.txTicked.cts = k.cts ∧ k.txTicked.wr1 = k.wr1 ∧
    k.txTicked.wr15 = k.wr15 ∧ k.txTicked.sdlcAddr = k.sdlcAddr
   ∧ k.txTicked.slots = k.slots ∧ k.txTicked.rxCur = k.rxCur ∧ k.txTicked.rdPtr = k.rdPtr ∧
       k.txTicked.eofCd = k.eofCd ∧ k.txTicked.eofPending = k.eofPending ∧
       k.txTicked.frameMatches = k.frameMatches := by
  unfold Channel.txTicked Channel.flushed; split_ifs <;> refine ⟨rfl, rfl, rfl, rfl, rfl, rfl, rfl, rfl, rfl,
      rfl, rfl⟩

theorem rxTicked_facts (k : Channel) : k.rxTicked.dcd = k.dcd ∧ k.rxTicked.cts = k.cts ∧ k.rxTicked.wr1 = k.wr1 ∧
    k.rxTicked.wr15 = k.wr15 ∧ k.rxTicked.sdlcAddr = k.sdlcAddr
   ∧ k.rxTicked.txCd = k.txCd ∧ k.rxTicked.txBuf = k.txBuf := by
  unfold Channel.rxTicked Channel.accepted Channel.rejected Channel.releaseActive Channel.countedDown Channel.setAct
  split_ifs <;> refine ⟨rfl, rfl, rfl, rfl, rfl, rfl, rfl⟩

theorem eofTicked_facts (k : Channel) : k.eofTicked =
    { k with eofCd := k.eofCd - 1, eofPending := if k.eofCd = 1 then true else k.eofPending } := by
  unfold Channel.eofTicked
  by_cases h : 0 < k.eofCd
  · rw [if_pos h]
  · have h0 : k.eofCd = 0 := by omega
    have h1 : ¬ k.eofCd = 1 := by omega
    rw [if_neg h, if_neg h1, h0]; cases k; simp_all

theorem popped_facts (k : Channel) : k.popped.dcd = k.dcd ∧ k.popped.cts = k.cts ∧ k.popped.wr1 = k.wr1 ∧
    k.popped.wr15 = k.wr15 ∧ k.popped.sdlcAddr = k.sdlcAddr
   ∧ k.popped.txCd = k.txCd ∧ k.popped.txBuf = k.txBuf := by
  unfold Channel.popped Channel.releaseActive Channel.setAct
  split_ifs <;> refine ⟨rfl, rfl, rfl, rfl, rfl, rfl, rfl⟩

theorem ticked_facts (k : Channel) : k.ticked.dcd = k.dcd ∧ k.ticked.cts = k.cts ∧ k.ticked.wr1 = k.wr1 ∧
    k.ticked.wr15 = k.wr15 ∧ k.ticked.sdlcAddr = k.sdlcAddr
   ∧ k.ticked.txCd = k.txTicked.txCd ∧ k.ticked.txBuf = k.txTicked.txBuf := by
  have h1 := txTicked_facts k
  have h2 := rxTicked_facts k.txTicked
  unfold Channel.ticked; rw [eofTicked_facts]
  simp [h1, h2]

/-! ### Events -/

theorem gateEvents_mem {v : Byte} {e : Event} (h : e ∈ gateEvents v) : e = .assertInterrupt ∧ wr1Gate v = true := by
  unfold gateEvents at h; split at h <;> simp_all

theorem flushEvents_mem {c : Chan} {k : Channel} {e : Event} (h : e ∈ flushEvents c k) : e = .sendFrame k.txBuf c := by
  unfold flushEvents at h; split at h <;> simp_all

theorem txTickEvents_mem {c : Chan} {k : Channel} {e : Event} (h : e ∈ txTickEvents c k) : ∃ b,
    e = .sendFrame b c := by
  unfold txTickEvents at h; split at h
  · exact ⟨_, flushEvents_mem h⟩
  · simp at h

theorem acceptEvents_mem {k : Channel} {e : Event} (h : e ∈ acceptEvents k) : e = .assertInterrupt ∧
    wr1Gate k.wr1 = true := by
  unfold acceptEvents at h
  rcases List.mem_append.1 h with h | h <;> split at h
  · exact gateEvents_mem h
  · simp at h
  · exact gateEvents_mem h
  · simp at h

theorem rxTickEvents_mem {k : Channel} {e : Event} (h : e ∈ rxTickEvents k) : e = .assertInterrupt ∧
    wr1Gate k.wr1 = true := by
  unfold rxTickEvents at h; split at h
  · exact acceptEvents_mem h
  · simp at h

theorem eofTickEvents_mem {k : Channel} {e : Event} (h : e ∈ eofTickEvents k) : e = .assertInterrupt ∧
    wr1Gate k.wr1 = true := by
  unfold eofTickEvents at h; split at h
  · rcases List.mem_append.1 h with h | h
    · split at h
      · exact gateEvents_mem h
      · simp at h
    · exact gateEvents_mem h
  · simp at h

theorem tickEvents_mem {c : Chan} {k : Channel} {e : Event} (h : e ∈ tickEvents c k) : (e = .assertInterrupt ∧
    wr1Gate k.wr1 = true) ∨ ∃ b, e = .sendFrame b c := by
  unfold tickEvents at h
  rcases List.mem_append.1 h with h | h
  · rcases List.mem_append.1 h with h | h
    · exact .inr (txTickEvents_mem h)
    · have := rxTickEvents_mem h; rw [(txTicked_facts k).2.2.1] at this; exact .inl this
  · have := eofTickEvents_mem h; rw [(rxTicked_facts _).2.2.1, (txTicked_facts k).2.2.1] at this; exact .inl this

end Sys2Proof.Machine
end

