-- ==== Sys2Proof/Laws/Decode.lean ====
section
/-! SUPPORT. The decoder, the encoder and the register maps: what each does, said once. -/

namespace Sys2Proof

/-- R73: the fields of an operation word are those it was made of. -/
theorem opWord_fields : ∀ (d : Bool) (p : BitVec 4) (c : Chan) (cls : OpClass),
   opClass (opWord cls d c p) = cls ∧ opData (opWord cls d c p) = d ∧ opChan (opWord cls d c p) = c ∧
       opPtr (opWord cls d c p) = p := by
  intro d p c cls; cases cls <;> cases c <;> revert d p <;> decide

/-- R73: an operation word is made of its fields. -/
theorem opWord_eta : ∀ k : Byte, opWord (opClass k) (opData k) (opChan k) (opPtr k) = k := by decide

/-- R73: bits 7 and 5 of an operation word. -/
theorem opWord_bits : ∀ (cls : OpClass) (d : Bool) (c : Chan) (p : BitVec 4),
    (opWord cls d c p)[7] = (cls == .host || cls == .reserved) ∧ (opWord cls d c p)[5] = d := by
  intro cls d c p; cases cls <;> cases c <;> revert d p <;> decide

/-- R73: the channel of an operation word. -/
theorem opChan_opWord (d : Bool) (p : BitVec 4) (c : Chan) (cls : OpClass) : opChan (opWord cls d c p) = c := by
  cases cls <;> cases c <;> revert d p <;> decide

/-- R75: the word of the write at an index. -/
theorem encode_writeMap : ∀ (n : BitVec 4) (c : Chan) (v : Byte),
    encode (writeMap c n v) = (opWord .busWrite false c n, Args.ofValue v) := by
  intro n c v
  have h : ∀ m, m < 16 → ∀ n : BitVec 4, n.toNat = m → encode (writeMap c n v) = (opWord .busWrite false c n,
      Args.ofValue v) := by
    intro m hm n hn
    have : n = BitVec.ofNat 4 m := by rw [← hn]; simp
    subst this
    interval_cases m <;> rfl
  exact h n.toNat n.isLt n rfl

/-- R76: the word of the read at an index. -/
theorem encode_readMap : ∀ (n : BitVec 4) (c : Chan), encode (readMap c n) = (opWord .busRead false c n,
    Args.zero) := by
  intro n c
  cases c <;> revert n <;> decide

theorem writeMap_wf (n : BitVec 4) (c : Chan) (v : Byte) : (writeMap c n v).wellFormed = true := by
  unfold writeMap; split <;> rfl

theorem readMap_wf (n : BitVec 4) (c : Chan) : (readMap c n).wellFormed = true := by
  cases c <;> revert n <;> decide

/-- R73, R75: decoding the word of a control write. -/
theorem decode_write (c : Chan) (p : BitVec 4) (v : Byte) :
    decode (opWord .busWrite false c p) (Args.ofValue v) = .ok (writeMap c p v) := by
  obtain ⟨a1, a2, a3, a4⟩ := opWord_fields false p c .busWrite
  simp only [decode, a1, a2, a3, a4]; rfl

/-- R73, R76: decoding the word of a control read. -/
theorem decode_read (c : Chan) (p : BitVec 4) (a : Args) :
    decode (opWord .busRead false c p) a = .ok (readMap c p) := by
  obtain ⟨a1, a2, a3, a4⟩ := opWord_fields false p c .busRead
  simp only [decode, a1, a2, a3, a4]; rfl

/-- R73, R70: decoding the word of a data write. -/
theorem decode_dataWrite (c : Chan) (p : BitVec 4) (v : Byte) :
    decode (opWord .busWrite true c p) (Args.ofValue v) = .ok (.wr8Data c p v) := by
  obtain ⟨a1, a2, a3, a4⟩ := opWord_fields true p c .busWrite
  simp only [decode, a1, a2, a3, a4]; rfl

/-- R73, R70: decoding the word of a data read. -/
theorem decode_dataRead (c : Chan) (p : BitVec 4) (a : Args) :
    decode (opWord .busRead true c p) a = .ok (.rr8Data c p) := by
  obtain ⟨a1, a2, a3, a4⟩ := opWord_fields true p c .busRead
  simp only [decode, a1, a2, a3, a4]; rfl

/-- R74, R160: decoding the word of a delivered frame. -/
theorem decode_rxFrame {bytes : List Byte} {n : Nat} (c : Chan) (d : Int) (h : bytes.length = n) :
    decode (opWord .host false c 2) { Args.zero with bytes := bytes, length := n, delay := d } =
      .ok (.rxFrame c bytes n d) := by
  obtain ⟨a1, a2, a3, a4⟩ := opWord_fields false 2 c .host
  simp only [decode, hostMap, a1, a2, a3, a4, h]; rfl

/-- R50: the channel is address bit 1. -/
theorem addrChan_eq (a : Nat) : addrChan a = if a / 2 % 2 = 1 then Chan.A else Chan.B := by
  unfold addrChan Chan.ofBit; simp [Nat.testBit_eq_decide_div_mod_eq]

/-- R50: a data access has address bit 2 set. -/
theorem addrData_eq (a : Nat) : addrData a = decide (a / 4 % 2 = 1) := by
  unfold addrData; simp [Nat.testBit_eq_decide_div_mod_eq]

/-- R70: what a write call names. -/
theorem decodeCall_write (ptr : BitVec 4) (a : Nat) (v : Byte) :
    decodeCall ptr (.write a v) = .ok (if addrData a
        then .wr8Data (addrChan a) ptr v else writeMap (addrChan a) ptr v) := by
  obtain ⟨a1, a2, a3, a4⟩ := opWord_fields (addrData a) ptr (addrChan a) .busWrite
  simp [decodeCall, callWord, callArgs, decode, a1, a2, a3, a4, Args.ofValue]

/-- R70: what a read call names. -/
theorem decodeCall_read (ptr : BitVec 4) (a : Nat) :
    decodeCall ptr (.read a) = .ok (if addrData a then .rr8Data (addrChan a) ptr else readMap (addrChan a) ptr) := by
  obtain ⟨a1, a2, a3, a4⟩ := opWord_fields (addrData a) ptr (addrChan a) .busRead
  simp [decodeCall, callWord, decode, a1, a2, a3, a4]

end Sys2Proof
end

