-- ==== Sys2Proof/Laws/Exec.lean ====
section
/-! SUPPORT. What an operation can do when it completes, said once (`exec_runs`): every claim over all operations is a
case split on `Runs`. -/

namespace Sys2Proof.Machine

/-- The reads that only consume the pointer and return a byte. -/
def isStatusRead : Instr → Bool
  | .rr0 _ | .rr1 _ | .rr2A | .rr3A | .rr3B | .rr4 _ | .rr5 _ | .rr6 _ | .rr7 _ | .rr9 _ | .rr10 _ | .rr11 _ | .rr12 _ => true
  | .rr13 _ | .rr14 _ | .rr15 _ => true
  | _ => false

/-- The writes with no effect (R105). -/
def isUnlistedWrite : Instr → Bool
  | .wr4 _ _ | .wr5 _ _ | .wr7 _ _ | .wr10 _ _ | .wr11 _ _ | .wr12 _ _ | .wr13 _ _ | .wr14 _ _ => true
  | _ => false

/-- R101: the channel after a WR0 byte. -/
def Channel.commanded (k : Channel) (v : Byte) : Channel :=
  let k' := if wr0Cmd v = 0b011 then k.flushed else k
  if wr0Crc v = 0b11 then { k' with txCd := 1 } else k'

/-- R101: the events of a WR0 byte. -/
def commandEvents (c : Chan) (k : Channel) (v : Byte) : List Event := if wr0Cmd v = 0b011 then flushEvents c k else []

/-- R101: the state after a WR0 byte, but for its channel and events. -/
def State.commanded (s : State) (v : Byte) : State :=
  { s with
    ptr := wr0Ptr v
    pending := if wr0Cmd v = 0b010 then 0 else s.pending
    pendingShadow := if wr0Cmd v = 0b010 then 0 else s.pendingShadow }

theorem execWr0_eq (c : Chan) (v : Byte) (s : State) :
    execWr0 c v s =
      .next ((s.commanded v).effect c ((s.ch c).commanded v) 0#Config.pendWidth (commandEvents c (s.ch c) v)) := by
  have h23 : wr0Cmd v = 2#3 → ¬ wr0Cmd v = 3#3 := by intro h; rw [h]; decide
  unfold execWr0 wr0Latch wr0Command State.commanded Channel.commanded commandEvents
  by_cases h2 : wr0Cmd v = 2#3
  · have h3 := h23 h2
    by_cases h4 : wr0Crc v = 3#2 <;> cases c <;> simp [h2, h4, State.effect, State.setCh, State.ch, State.consumePtr]
  · by_cases h3 : wr0Cmd v = 3#3
    · by_cases h4 : wr0Crc v = 3#2 <;> cases c <;>
        simp [h3, h4, flush_eq, State.effect, State.setCh, State.ch, State.consumePtr]
    · by_cases h4 : wr0Crc v = 3#2 <;> cases c <;>
        simp [h2, h3, h4, State.effect, State.setCh, State.ch, State.consumePtr]

@[simp] theorem ch_commanded (s : State) (v : Byte) (c : Chan) : (s.commanded v).ch c = s.ch c := by cases c <;> rfl

theorem commanded_facts (k : Channel) (v : Byte) : (k.commanded v).dcd = k.dcd ∧ (k.commanded v).cts = k.cts ∧
    (k.commanded v).wr1 = k.wr1 ∧ (k.commanded v).wr15 = k.wr15 ∧ (k.commanded v).sdlcAddr = k.sdlcAddr
   ∧ (k.commanded v).slots = k.slots ∧ (k.commanded v).rxCur = k.rxCur ∧ (k.commanded v).rdPtr = k.rdPtr := by
  unfold Channel.commanded Channel.flushed; split_ifs <;> refine ⟨rfl, rfl, rfl, rfl, rfl, rfl, rfl, rfl⟩

/-- What a completed operation did. -/
inductive Runs : Instr → State → State → Prop where
  | statusRead (i : Instr) (s : State) (v : Byte) (h : isStatusRead i = true) : Runs i s (s.consumePtr.returnByte v)
  | unlistedWrite (i : Instr) (s : State) (h : isUnlistedWrite i = true) : Runs i s s.consumePtr
  | command (c : Chan) (v : Byte) (s : State) : Runs (.wr0 c v) s
      ((s.commanded v).effect c ((s.ch c).commanded v) 0#Config.pendWidth (commandEvents c (s.ch c) v))
  | enables (c : Chan) (v : Byte) (s : State) : Runs (.wr1 c v) s (s.consumePtr.setCh c { s.ch c with wr1 := v })
  | vectorBase (c : Chan) (v : Byte) (s : State) : Runs (.wr2 c v) s { s.consumePtr with wr2 := v }
  | receiveControl (c : Chan) (v : Byte) (s : State) : Runs (.wr3 c v) s
      (s.consumePtr.setCh c { s.ch c with hunting := if wr3Hunt v = true then true else (s.ch c).hunting })
  | address (c : Chan) (v : Byte) (s : State) : Runs (.wr6 c v) s (s.consumePtr.setCh c { s.ch c with sdlcAddr := v })
  | masterControl (c : Chan) (v : Byte) (s : State) : Runs (.wr9 c v) s { s.consumePtr with wr9 := v }
  | externalEnables (c : Chan) (v : Byte) (s : State) : Runs (.wr15 c v) s
      (s.consumePtr.effect c { s.ch c with wr15 := v } 0#Config.pendWidth
        (if s.pending ≠ 0 then gateEvents (s.ch c).wr1 else []))
  | append (c : Chan) (v : Byte) (s : State) (h : (s.ch c).txBuf.length ≠ Config.txBufBytes) : Runs (.wr8Ctl c v) s
      (s.consumePtr.setCh c ((s.ch c).txPush Config.txIdleBase v))
  | appendData (c : Chan) (p : BitVec 4) (v : Byte) (s : State) (h : (s.ch c).txBuf.length ≠ Config.txBufBytes) :
      Runs (.wr8Data c p v) s (s.setCh c ((s.ch c).txPush Config.txIdleBase v))
  | acknowledge (s : State) : Runs .rr2B s (acknowledge Config.ackBrxQuirk s.consumePtr)
  | noByte (i : Instr) (c : Chan) (s s' : State) (hi : (i = .rr8Ctl c ∧ s' = s.consumePtr) ∨ (∃ p,
      i = .rr8Data c p) ∧ s' = s)
      (h : (s.ch c).unread = 0) : Runs i s (s'.returnByte Config.noDataRead)
  | pop (i : Instr) (c : Chan) (s s' : State) (hi : (i = .rr8Ctl c ∧ s' = s.consumePtr) ∨ (∃ p,
      i = .rr8Data c p) ∧ s' = s)
      (h : (s.ch c).unread ≠ 0) : Runs i s
        ((s'.effect c (s.ch c).popped (popBits c (s.ch c)) (popEvents (s.ch c))).returnByte (s.ch c).nextByte)
  | tick (s : State) : Runs .tick s (tickDevice s)
  | sameDcd (c : Chan) (a : Bool) (s : State) (h : a = (s.ch c).dcd) : Runs (.setDcd c a) s s
  | newDcd (c : Chan) (a : Bool) (s : State) (h : a ≠ (s.ch c).dcd) : Runs (.setDcd c a) s
      (s.effect c { s.ch c with dcd := a } (if dcdEnabled (s.ch c).wr15 = true then extBit c else 0)
        (if dcdEnabled (s.ch c).wr15 = true then gateEvents (s.ch c).wr1 else []))
  | frameStored (c : Chan) (bytes : List Byte) (n : Nat) (d : Int) (i : Fin Config.noRxbuf) (s : State)
      (h : frameDuty bytes n d = true) (hi : (s.ch c).firstFree = some i) : Runs (.rxFrame c bytes n d) s
      (s.setCh c { s.ch c with
        slots := (s.ch c).slots.set i { cd := d, len := n + Config.trailerLen, data := frameData bytes } })
  | frameDropped (c : Chan) (bytes : List Byte) (n : Nat) (d : Int) (s : State)
      (h : frameDuty bytes n d = true) (hi : (s.ch c).firstFree = none) : Runs (.rxFrame c bytes n d) s
      (s.emit (.rxDropped c))

/-- R104: WR3 as one update. -/
theorem execWr3_eq (c : Chan) (v : Byte) (s : State) : execWr3 c v s =
    .next (s.consumePtr.setCh c { s.ch c with hunting := if wr3Hunt v = true then true else (s.ch c).hunting }) := by
  unfold execWr3
  by_cases h : wr3Hunt v = true <;> cases c <;> simp [h, State.setCh, State.consumePtr]

/-- R142, R72: a data read, through either path. -/
theorem dataRead_runs {i : Instr} {c : Chan} {s s' : State}
    (hi : (i = .rr8Ctl c ∧ s' = s.consumePtr) ∨ (∃ p, i = .rr8Data c p) ∧ s' = s) : Runs i s (dataRead c s') := by
  have hch : s'.ch c = s.ch c := by rcases hi with ⟨-, rfl⟩ | ⟨-, rfl⟩ <;> simp
  by_cases h : (s.ch c).unread = 0
  · rw [dataRead_empty c s' (by rw [hch]; exact h)]; exact .noByte i c s s' hi h
  · rw [dataRead_pop c s' (by rw [hch]; exact h), hch]; exact .pop i c s s' hi h

theorem txAppend_next {c : Chan} {v : Byte} {s t : State} (h : txAppend c v s = .next t) :
    (s.ch c).txBuf.length ≠ Config.txBufBytes ∧ t = s.setCh c ((s.ch c).txPush Config.txIdleBase v) := by
  unfold txAppend at h
  split at h
  · cases h
  · exact ⟨‹_›, by cases h; rfl⟩

/-- The one inversion lemma of `exec`. -/
theorem exec_runs {i : Instr} {s t : State} (h : exec i s = .next t) : Runs i s t := by
  cases i with
  | wr0 c v => rw [exec, execWr0_eq] at h; cases h; exact .command c v s
  | wr1 c v => cases h; exact .enables c v s
  | wr2 c v => cases h; exact .vectorBase c v s
  | wr3 c v => rw [exec, execWr3_eq] at h; cases h; exact .receiveControl c v s
  | wr6 c v => cases h; exact .address c v s
  | wr8Ctl c v =>
    obtain ⟨h1, rfl⟩ := txAppend_next h
    simp only [ch_consumePtr] at h1 ⊢
    exact .append c v s h1
  | wr8Data c p v => obtain ⟨h1, rfl⟩ := txAppend_next h; exact .appendData c p v s h1
  | wr9 c v => cases h; exact .masterControl c v s
  | wr15 c v =>
    have e : t = s.consumePtr.effect c { s.ch c with wr15 := v } 0#Config.pendWidth
        (if s.pending ≠ 0 then gateEvents (s.ch c).wr1 else []) := by
      cases h; rw [intRaise_eq]
      by_cases h0 : s.pending = 0#Config.pendWidth <;> cases c <;>
        simp [h0, State.effect, State.setCh, State.ch, State.consumePtr]
    rw [e]; exact .externalEnables c v s
  | rr2B => cases h; exact .acknowledge s
  | rr8Ctl c => cases h; exact dataRead_runs (.inl ⟨rfl, rfl⟩)
  | rr8Data c p => cases h; exact dataRead_runs (.inr ⟨⟨p, rfl⟩, rfl⟩)
  | tick => cases h; exact .tick s
  | setDcd c a =>
    cases h
    by_cases hd : a = (s.ch c).dcd
    · rw [setDcdLine_same c a s hd]; exact .sameDcd c a s hd
    · rw [setDcdLine_eq c a s hd]; exact .newDcd c a s hd
  | rxFrame c bytes n d =>
    rw [exec, execRxFrame] at h
    split at h
    · rename_i hd
      cases h
      unfold enqueueFrame
      cases hf : (s.ch c).firstFree with
      | some i => simp only [hf]; exact .frameStored c bytes n d i s hd hf
      | none => simp only [hf]; exact .frameDropped c bytes n d s hd hf
    · cases h
  | wr4 c v | wr5 c v | wr7 c v | wr10 c v | wr11 c v | wr12 c v | wr13 c v | wr14 c v =>
    cases h; exact .unlistedWrite _ s rfl
  | rr0 c | rr1 c | rr4 c | rr5 c | rr6 c | rr7 c | rr9 c | rr10 c | rr11 c | rr12 c | rr13 c | rr14 c | rr15 c =>
    cases h; exact .statusRead _ s _ rfl
  | rr2A | rr3A | rr3B => cases h; exact .statusRead _ s _ rfl

/-- The channels after a tick. -/
theorem ch_tickDevice (c : Chan) (s : State) : (tickDevice s).ch c = (s.ch c).ticked := by
  rw [tickDevice_eq]
  rcases eq_or_eq_other (tickFirst s.ticks) c with h | h
  · rw [h]; simp
  · rw [h]; simp

/-- The pending vector after a tick. -/
theorem tickDevice_pending (s : State) :
    (tickDevice s).pending = s.pending ||| tickBits .A s.chA ||| tickBits .B s.chB := by
  rw [tickDevice_eq]
  cases tickFirst s.ticks
  · simp [Chan.other]
  · simp only [Chan.other, effect_pending, ch_A, ch_B]
    rw [BitVec.or_assoc, BitVec.or_assoc, BitVec.or_comm (tickBits .B _)]

/-- The events of a tick, in the order of the channels. -/
theorem tickDevice_trace (s : State) : (tickDevice s).trace = s.trace ++
    (tickEvents (tickFirst s.ticks) (s.ch (tickFirst s.ticks)) ++
      tickEvents (tickFirst s.ticks).other (s.ch (tickFirst s.ticks).other)) := by
  rw [tickDevice_eq]; simp

/-- A tick leaves every other field but the model's counter. -/
theorem tickDevice_rest (s : State) : (tickDevice s).ptr = s.ptr ∧ (tickDevice s).pendingShadow = s.pendingShadow ∧
    (tickDevice s).wr2 = s.wr2 ∧ (tickDevice s).wr9 = s.wr9 ∧ (tickDevice s).calls = s.calls ∧
    (tickDevice s).returned = s.returned ∧ (tickDevice s).ticks = s.ticks + 1 := by
  rw [tickDevice_eq]; simp

end Sys2Proof.Machine
end

