-- ==== Sys2Proof/Laws/Pending.lean ====
section
/-! SUPPORT. The pending vector and the hunting flag: what each operation does to them. -/

namespace Sys2Proof.Machine

/-- A mask of an OR, where the mask misses the first part. -/
theorem or_and_eq (p b e : BitVec Config.pendWidth) (h : p &&& e = 0) : (p ||| b) &&& e = b &&& e := by
  rw [BitVec.and_comm, BitVec.and_or_distrib_left, BitVec.and_comm e p, h]; simp [BitVec.and_comm]

/-- R164: only an accepted frame arms the end-of-frame countdown. -/
theorem rxTicked_eofCd (k : Channel) : k.rxTicked.eofCd = if k.accepts = true then 3 * k.act.len else k.eofCd := by
  unfold Channel.rxTicked Channel.accepts
  by_cases h : 0 < k.act.cd
  · by_cases h1 : k.act.cd = 1
    · by_cases hm : k.frameMatches = true
      · simp [h1, hm, Channel.accepted, Channel.countedDown]
      · simp [h1, hm, Channel.rejected, Channel.releaseActive, Channel.countedDown, Channel.setAct]
    · simp [h, h1, Channel.countedDown, Channel.setAct]
  · have h1 : ¬ k.act.cd = 1 := by omega
    simp [h, h1]

theorem accepts_txTicked (k : Channel) : k.txTicked.accepts = k.accepts := by
  unfold Channel.accepts; rw [txTicked_act, (txTicked_facts k).2.2.2.2.2.2.2.2.2.2]

theorem accepts_iff (k : Channel) : k.accepts = true ↔ k.act.cd = 1 ∧ k.frameMatches = true := by
    simp [Channel.accepts]

/-- R236: when a tick sets EXT. -/
theorem tickBits_ext {c : Chan} {k : Channel} (h : tickBits c k &&& extBit c ≠ 0) : 0 < k.eofCd ∨ (k.act.cd = 1 ∧
    k.frameMatches = true) := by
  by_cases ha : k.accepts = true
  · exact .inr ((accepts_iff k).1 ha)
  · refine .inl (Nat.pos_of_ne_zero fun h0 => h ?_)
    have e : k.txTicked.rxTicked.eofCd = 0 := by rw [rxTicked_eofCd, accepts_txTicked, if_neg ha,
        (txTicked_facts k).2.2.2.2.2.2.2.2.1, h0]
    simp [tickBits, rxTickBits, accepts_txTicked, ha, eofTickBits, e]

/-- R236: when a tick sets RX. -/
theorem tickBits_rx {c : Chan} {k : Channel} (h : tickBits c k &&& rxBit c ≠ 0) :
   (k.act.cd = 1 ∧ k.frameMatches = true ∧ firstOrAll k.wr1 = true) ∨ (k.eofCd = 1 ∧ specialCond k.wr1 = true) := by
  by_cases ha : k.accepts = true
  · refine .inl ?_
    obtain ⟨h1, h2⟩ := (accepts_iff k).1 ha
    refine ⟨h1, h2, ?_⟩
    by_contra hf
    apply h
    have e : k.txTicked.rxTicked.eofCd = 3 * k.act.len := by rw [rxTicked_eofCd, accepts_txTicked, if_pos ha,
        txTicked_act]
    have e1 : ¬ (3 * k.act.len = 1) := by omega
    have hw : k.txTicked.wr1 = k.wr1 := (txTicked_facts k).2.2.1
    have ab : acceptBits c k.txTicked = extBit c ∨ acceptBits c k.txTicked = 0 := by
      unfold acceptBits; rw [hw, if_neg hf]
      split_ifs
      · left; simp
      · right; simp
    simp only [tickBits, rxTickBits, accepts_txTicked, ha, if_true, eofTickBits, e, e1, false_and, if_false]
    rcases ab with ab | ab <;> rw [ab] <;> split_ifs <;> cases c <;> decide
  · refine .inr ?_
    have e : k.txTicked.rxTicked.eofCd = k.eofCd := by rw [rxTicked_eofCd, accepts_txTicked, if_neg ha,
        (txTicked_facts k).2.2.2.2.2.2.2.2.1]
    have hw : k.txTicked.rxTicked.wr1 = k.wr1 := by rw [(rxTicked_facts _).2.2.1, (txTicked_facts k).2.2.1]
    by_contra hn
    apply h
    rw [tickBits, rxTickBits, if_neg (by rw [accepts_txTicked]; exact ha)]
    simp only [eofTickBits, e, hw, hn, if_false]
    split_ifs <;> cases c <;> decide

/-- R236: a tick sets EXT and RX of its channel only. -/
theorem tickBits_mask (c : Chan) (k : Channel) (m : BitVec Config.pendWidth) (h1 : extBit c &&& m = 0)
    (h2 : rxBit c &&& m = 0) : tickBits c k &&& m = 0 := by
  unfold tickBits rxTickBits acceptBits eofTickBits
  split_ifs <;> revert h1 h2 <;> cases c <;> revert m <;> decide

/-- R236: a pop sets EXT and RX of its channel only. -/
theorem popBits_mask (c : Chan) (k : Channel) (m : BitVec Config.pendWidth) (h1 : extBit c &&& m = 0)
    (h2 : rxBit c &&& m = 0) : popBits c k &&& m = 0 := by
  unfold popBits
  split_ifs <;> revert h1 h2 <;> cases c <;> revert m <;> decide

/-- R236: when a pop sets EXT. -/
theorem popBits_ext {c d : Chan} {k : Channel} (h : popBits d k &&& extBit c ≠ 0) : d = c ∧
    ¬ k.rdPtr + 1 < k.act.len ∧ k.wr15.getLsbD 7 = true := by
  unfold popBits breakEnabled at h
  split_ifs at h with h1 h2 h3
  · exact absurd (by cases c <;> cases d <;> decide) h
  · simp at h
  · refine ⟨?_, h1, h3⟩
    by_contra hd; apply h; revert hd; cases c <;> cases d <;> decide
  · simp at h

/-- R236: when a pop sets RX. -/
theorem popBits_rx {c d : Chan} {k : Channel} (h : popBits d k &&& rxBit c ≠ 0) : d = c ∧
    k.rdPtr + 1 < k.act.len ∧ allChars k.wr1 = true := by
  unfold popBits at h
  split_ifs at h with h1 h2 h3
  · refine ⟨?_, h1, h2⟩
    by_contra hd; apply h; revert hd; cases c <;> cases d <;> decide
  · simp at h
  · exact absurd (by cases c <;> cases d <;> decide) h
  · simp at h

/-- R236, R237: what an operation does to the pending vector. -/
theorem runs_pending {i : Instr} {s t : State} (h : Runs i s t) :
   t.pending = s.pending ∨ (∃ c v, i = .wr0 c v ∧ wr0Cmd v = 0b010 ∧ t.pending = 0 ∧ t.pendingShadow = 0) ∨
   (i = .rr2B ∧ t.pending = ackClear false s.pending) ∨
   (∃ c, (i = .rr8Ctl c ∨ ∃ p, i = .rr8Data c p) ∧ (s.ch c).unread ≠ 0 ∧
       t.pending = s.pending ||| popBits c (s.ch c)) ∨
   (i = .tick ∧ t.pending = s.pending ||| tickBits .A s.chA ||| tickBits .B s.chB) ∨
   (∃ c a, i = .setDcd c a ∧ a ≠ (s.ch c).dcd ∧
       t.pending = s.pending ||| if dcdEnabled (s.ch c).wr15 = true then extBit c else 0) := by
  cases h with
  | command c v =>
    by_cases h2 : wr0Cmd v = 2#3
    · exact .inr (.inl ⟨c, v, rfl, h2, by simp [State.commanded, h2], by simp [State.commanded, h2]⟩)
    · left; simp [State.commanded, h2]
  | acknowledge => exact .inr (.inr (.inl ⟨rfl, by simp [acknowledge_eq]⟩))
  | noByte _ c _ s' hi h0 => left; rcases hi with ⟨-, rfl⟩ | ⟨-, rfl⟩ <;> simp
  | pop _ c _ s' hi h0 =>
    refine .inr (.inr (.inr (.inl ⟨c, ?_, h0, ?_⟩)))
    · rcases hi with ⟨rfl, -⟩ | ⟨hp, -⟩
      · exact .inl rfl
      · exact .inr hp
    · rcases hi with ⟨-, rfl⟩ | ⟨-, rfl⟩ <;> simp
  | tick => exact .inr (.inr (.inr (.inr (.inl ⟨rfl, tickDevice_pending s⟩))))
  | newDcd c a _ h => exact .inr (.inr (.inr (.inr (.inr ⟨c, a, rfl, h, by simp⟩))))
  | _ => left; simp [State.emit]

/-- R243: no operation sets a transmit cause. -/
theorem runs_txBit {i : Instr} {s t : State} (h : Runs i s t) (c : Chan) (h0 : s.pending &&& txBit c = 0) :
    t.pending &&& txBit c = 0 := by
  have bx : ∀ d, extBit d &&& txBit c = 0 ∧ rxBit d &&& txBit c = 0 := by cases c <;> intro d <;> cases d <;> decide
  rcases runs_pending h with h | ⟨d, v, -, -, h, -⟩ | ⟨-, h⟩ | ⟨d, -, -, h⟩ | ⟨-, h⟩ | ⟨d, a, -, -, h⟩ <;> rw [h]
  · exact h0
  · simp
  · revert h0; generalize s.pending = p; revert p; cases c <;> decide
  · rw [or_and_eq _ _ _ h0, popBits_mask _ _ _ (bx d).1 (bx d).2]
  · rw [BitVec.or_assoc, or_and_eq _ _ _ h0, or_and_eq _ _ _ (tickBits_mask _ _ _ (bx _).1 (bx _).2),
      tickBits_mask _ _ _ (bx _).1 (bx _).2]
  · rw [or_and_eq _ _ _ h0]; split_ifs
    · exact (bx d).1
    · simp

/-- R236: the part of a tick that a mask of one channel sees. -/
theorem tick_pending_mask (s : State) (c : Chan) (m : BitVec Config.pendWidth) (h0 : s.pending &&& m = 0)
    (h1 : extBit c.other &&& m = 0) (h2 : rxBit c.other &&& m = 0) :
   (s.pending ||| tickBits .A s.chA ||| tickBits .B s.chB) &&& m = tickBits c (s.ch c) &&& m := by
  have e : s.pending ||| tickBits .A s.chA ||| tickBits .B s.chB =
      s.pending ||| (tickBits c.other (s.ch c.other) ||| tickBits c (s.ch c)) := by
    cases c
    · simp only [Chan.other, ch_A, ch_B]; ac_rfl
    · simp only [Chan.other, ch_A, ch_B]; ac_rfl
  rw [e, or_and_eq _ _ _ h0, or_and_eq _ _ _ (tickBits_mask _ _ _ h1 h2)]

/-- R34: hunting after a transmit tick step. -/
theorem txTicked_hunting (k : Channel) : k.txTicked.hunting = (decide (k.txCd = 1) || k.hunting) := by
  unfold Channel.txTicked Channel.flushed
  by_cases h : 0 < k.txCd
  · by_cases h1 : k.txCd = 1 <;> simp [h, h1]
  · have h1 : ¬ k.txCd = 1 := by omega
    simp [h, h1]

/-- R34: hunting after a receive tick step. -/
theorem rxTicked_hunting (k : Channel) : k.rxTicked.hunting = if k.act.cd = 1 then !k.frameMatches else k.hunting := by
  unfold Channel.rxTicked
  by_cases h : 0 < k.act.cd
  · by_cases h1 : k.act.cd = 1
    · by_cases hm : k.frameMatches = true
      · simp [h1, hm, Channel.accepted]
      · simp [h1, hm, Channel.rejected]
    · simp [h, h1, Channel.countedDown, Channel.setAct]
  · have h1 : ¬ k.act.cd = 1 := by omega
    simp [h, h1]

/-- R34: hunting after a tick. -/
theorem ticked_hunting (k : Channel) :
    k.ticked.hunting = if k.act.cd = 1 then !k.frameMatches else (decide (k.txCd = 1) || k.hunting) := by
  unfold Channel.ticked
  rw [eofTicked_facts]
  simp only [rxTicked_hunting, txTicked_act, (txTicked_facts k).2.2.2.2.2.2.2.2.2.2, txTicked_hunting]

/-- R34: hunting after a pop. -/
theorem popped_hunting (k : Channel) : k.popped.hunting = if k.rdPtr + 1 < k.act.len then k.hunting else true := by
  unfold Channel.popped Channel.releaseActive Channel.setAct; split_ifs <;> rfl

/-- R34: hunting after a WR0 byte. -/
theorem commanded_hunting (k : Channel) (v : Byte) :
    (k.commanded v).hunting = if wr0Cmd v = 0b011 then true else k.hunting := by
  unfold Channel.commanded Channel.flushed; split_ifs <;> rfl

end Sys2Proof.Machine
end

