-- ==== Sys2Proof/Laws/PerInstr.lean ====
section
/-! SUPPORT. The laws stated of every constructor: family `OpcodeRow`, the bits that spec/opcode_table.json fixes in the
word of each operation. -/

namespace Sys2Proof.Laws.OpcodeRow

/-- The columns "mask" and "match" of the operation's row of spec/opcode_table.json. -/
def row : Instr → Byte × Byte
  | .wr0 _ _ => (0xEF, 0x40)
  | .wr1 _ _ => (0xEF, 0x41)
  | .wr2 _ _ => (0xEF, 0x42)
  | .wr3 _ _ => (0xEF, 0x43)
  | .wr4 _ _ => (0xEF, 0x44)
  | .wr5 _ _ => (0xEF, 0x45)
  | .wr6 _ _ => (0xEF, 0x46)
  | .wr7 _ _ => (0xEF, 0x47)
  | .wr8Ctl _ _ => (0xEF, 0x48)
  | .wr9 _ _ => (0xEF, 0x49)
  | .wr10 _ _ => (0xEF, 0x4A)
  | .wr11 _ _ => (0xEF, 0x4B)
  | .wr12 _ _ => (0xEF, 0x4C)
  | .wr13 _ _ => (0xEF, 0x4D)
  | .wr14 _ _ => (0xEF, 0x4E)
  | .wr15 _ _ => (0xEF, 0x4F)
  | .wr8Data _ _ _ => (0xE0, 0x60)
  | .rr0 _ => (0xEF, 0x00)
  | .rr1 _ => (0xEF, 0x01)
  | .rr4 _ => (0xEF, 0x04)
  | .rr5 _ => (0xEF, 0x05)
  | .rr6 _ => (0xEF, 0x06)
  | .rr7 _ => (0xEF, 0x07)
  | .rr8Ctl _ => (0xEF, 0x08)
  | .rr9 _ => (0xEF, 0x09)
  | .rr10 _ => (0xEF, 0x0A)
  | .rr11 _ => (0xEF, 0x0B)
  | .rr12 _ => (0xEF, 0x0C)
  | .rr13 _ => (0xEF, 0x0D)
  | .rr14 _ => (0xEF, 0x0E)
  | .rr15 _ => (0xEF, 0x0F)
  | .rr2B => (0xFF, 0x02)
  | .rr2A => (0xFF, 0x12)
  | .rr3B => (0xFF, 0x03)
  | .rr3A => (0xFF, 0x13)
  | .rr8Data _ _ => (0xE0, 0x20)
  | .tick => (0xFF, 0x80)
  | .setDcd _ _ => (0xEF, 0x81)
  | .rxFrame _ _ _ _ => (0xEF, 0x82)

/-- The word of the operation has the bits its row fixes. -/
def Statement (i : Instr) : Prop := (encode i).1 &&& (row i).1 = (row i).2

theorem wr0 (c : Chan) (v : Byte) : Statement (.wr0 c v) := by
  change opWord .busWrite false c 0 &&& 0xEF = 0x40; cases c <;> decide

theorem wr1 (c : Chan) (v : Byte) : Statement (.wr1 c v) := by
  change opWord .busWrite false c 1 &&& 0xEF = 0x41; cases c <;> decide

theorem wr2 (c : Chan) (v : Byte) : Statement (.wr2 c v) := by
  change opWord .busWrite false c 2 &&& 0xEF = 0x42; cases c <;> decide

theorem wr3 (c : Chan) (v : Byte) : Statement (.wr3 c v) := by
  change opWord .busWrite false c 3 &&& 0xEF = 0x43; cases c <;> decide

theorem wr4 (c : Chan) (v : Byte) : Statement (.wr4 c v) := by
  change opWord .busWrite false c 4 &&& 0xEF = 0x44; cases c <;> decide

theorem wr5 (c : Chan) (v : Byte) : Statement (.wr5 c v) := by
  change opWord .busWrite false c 5 &&& 0xEF = 0x45; cases c <;> decide

theorem wr6 (c : Chan) (v : Byte) : Statement (.wr6 c v) := by
  change opWord .busWrite false c 6 &&& 0xEF = 0x46; cases c <;> decide

theorem wr7 (c : Chan) (v : Byte) : Statement (.wr7 c v) := by
  change opWord .busWrite false c 7 &&& 0xEF = 0x47; cases c <;> decide

theorem wr8Ctl (c : Chan) (v : Byte) : Statement (.wr8Ctl c v) := by
  change opWord .busWrite false c 8 &&& 0xEF = 0x48; cases c <;> decide

theorem wr9 (c : Chan) (v : Byte) : Statement (.wr9 c v) := by
  change opWord .busWrite false c 9 &&& 0xEF = 0x49; cases c <;> decide

theorem wr10 (c : Chan) (v : Byte) : Statement (.wr10 c v) := by
  change opWord .busWrite false c 10 &&& 0xEF = 0x4A; cases c <;> decide

theorem wr11 (c : Chan) (v : Byte) : Statement (.wr11 c v) := by
  change opWord .busWrite false c 11 &&& 0xEF = 0x4B; cases c <;> decide

theorem wr12 (c : Chan) (v : Byte) : Statement (.wr12 c v) := by
  change opWord .busWrite false c 12 &&& 0xEF = 0x4C; cases c <;> decide

theorem wr13 (c : Chan) (v : Byte) : Statement (.wr13 c v) := by
  change opWord .busWrite false c 13 &&& 0xEF = 0x4D; cases c <;> decide

theorem wr14 (c : Chan) (v : Byte) : Statement (.wr14 c v) := by
  change opWord .busWrite false c 14 &&& 0xEF = 0x4E; cases c <;> decide

theorem wr15 (c : Chan) (v : Byte) : Statement (.wr15 c v) := by
  change opWord .busWrite false c 15 &&& 0xEF = 0x4F; cases c <;> decide

theorem wr8Data (c : Chan) (p : BitVec 4) (v : Byte) : Statement (.wr8Data c p v) := by
  change opWord .busWrite true c p &&& 0xE0 = 0x60; cases c <;> revert p <;> decide

theorem rr0 (c : Chan) : Statement (.rr0 c) := by
  change opWord .busRead false c 0 &&& 0xEF = 0x00; cases c <;> decide

theorem rr1 (c : Chan) : Statement (.rr1 c) := by
  change opWord .busRead false c 1 &&& 0xEF = 0x01; cases c <;> decide

theorem rr4 (c : Chan) : Statement (.rr4 c) := by
  change opWord .busRead false c 4 &&& 0xEF = 0x04; cases c <;> decide

theorem rr5 (c : Chan) : Statement (.rr5 c) := by
  change opWord .busRead false c 5 &&& 0xEF = 0x05; cases c <;> decide

theorem rr6 (c : Chan) : Statement (.rr6 c) := by
  change opWord .busRead false c 6 &&& 0xEF = 0x06; cases c <;> decide

theorem rr7 (c : Chan) : Statement (.rr7 c) := by
  change opWord .busRead false c 7 &&& 0xEF = 0x07; cases c <;> decide

theorem rr8Ctl (c : Chan) : Statement (.rr8Ctl c) := by
  change opWord .busRead false c 8 &&& 0xEF = 0x08; cases c <;> decide

theorem rr9 (c : Chan) : Statement (.rr9 c) := by
  change opWord .busRead false c 9 &&& 0xEF = 0x09; cases c <;> decide

theorem rr10 (c : Chan) : Statement (.rr10 c) := by
  change opWord .busRead false c 10 &&& 0xEF = 0x0A; cases c <;> decide

theorem rr11 (c : Chan) : Statement (.rr11 c) := by
  change opWord .busRead false c 11 &&& 0xEF = 0x0B; cases c <;> decide

theorem rr12 (c : Chan) : Statement (.rr12 c) := by
  change opWord .busRead false c 12 &&& 0xEF = 0x0C; cases c <;> decide

theorem rr13 (c : Chan) : Statement (.rr13 c) := by
  change opWord .busRead false c 13 &&& 0xEF = 0x0D; cases c <;> decide

theorem rr14 (c : Chan) : Statement (.rr14 c) := by
  change opWord .busRead false c 14 &&& 0xEF = 0x0E; cases c <;> decide

theorem rr15 (c : Chan) : Statement (.rr15 c) := by
  change opWord .busRead false c 15 &&& 0xEF = 0x0F; cases c <;> decide

theorem rr2B : Statement .rr2B := by
  unfold Statement; decide

theorem rr2A : Statement .rr2A := by
  unfold Statement; decide

theorem rr3B : Statement .rr3B := by
  unfold Statement; decide

theorem rr3A : Statement .rr3A := by
  unfold Statement; decide

theorem rr8Data (c : Chan) (p : BitVec 4) : Statement (.rr8Data c p) := by
  change opWord .busRead true c p &&& 0xE0 = 0x20; cases c <;> revert p <;> decide

theorem tick : Statement .tick := by
  unfold Statement; decide

theorem setDcd (c : Chan) (asserted : Bool) : Statement (.setDcd c asserted) := by
  change opWord .host false c 1 &&& 0xEF = 0x81; cases c <;> decide

theorem rxFrame (c : Chan) (bytes : List Byte) (n : Nat) (d : Int) : Statement (.rxFrame c bytes n d) := by
  change opWord .host false c 2 &&& 0xEF = 0x82; cases c <;> decide

end Sys2Proof.Laws.OpcodeRow
end

