-- ==== Sys2Proof/Laws/Ring.lean ====
section
/-! SUPPORT. The ring of receive slots, in order from the cursor: what each update does to it. -/

namespace Sys2Proof.Machine

theorem ringIdx_val (i : Fin Config.noRxbuf) (j : Nat) : (ringIdx i j).val = (i.val + j) % 4 := rfl

theorem ringIdx_zero (i : Fin Config.noRxbuf) : ringIdx i 0 = i := by revert i; decide

theorem ringIdx_add (i : Fin Config.noRxbuf) (a b : Nat) : ringIdx (ringIdx i a) b = ringIdx i (a + b) := by
  apply Fin.ext; simp only [ringIdx_val]; omega

theorem ringIdx_inj {i : Fin Config.noRxbuf} {a b : Nat} (ha : a < 4) (hb : b < 4) :
    (ringIdx i a).val = (ringIdx i b).val ↔ a = b := by
  simp only [ringIdx_val]; omega

theorem ringIdx_four (i : Fin Config.noRxbuf) : ringIdx i 4 = i := by revert i; decide

theorem slot_congr (v : Vector Slot Config.noRxbuf) {i j : Fin Config.noRxbuf} (h : i = j) : v[i] = v[j] := by
    subst h; rfl

theorem set_congr (v : Vector Slot Config.noRxbuf) {i j : Fin Config.noRxbuf} (h : i = j) (x : Slot) :
    v.set i x = v.set j x := by subst h; rfl

/-- R39: the active slot comes first. -/
theorem act_eq (k : Channel) : k.act = k.ringSlot 0 := slot_congr _ (ringIdx_zero _).symm

theorem ring_congr {k l : Channel} (hs : l.slots = k.slots) (hc : l.rxCur = k.rxCur) (j : Nat) :
    l.ringSlot j = k.ringSlot j := by
  cases k; cases l; simp only at hs hc; subst hs hc; rfl

/-- R160: a slot filled `m` places after the cursor. -/
theorem ringSlot_fill (k : Channel) (m j : Nat) (x : Slot) (hm : m < 4) (hj : j < 4) :
   Channel.ringSlot { k with slots := k.slots.set (ringIdx k.rxCur m) x } j = if j = m then x else k.ringSlot j := by
  unfold Channel.ringSlot
  have h := ringIdx_inj (i := k.rxCur) hm hj
  simp only [Fin.getElem_fin, Vector.getElem_set]
  by_cases e : j = m
  · subst e; simp
  · have e' : ¬ (ringIdx k.rxCur m).val = (ringIdx k.rxCur j).val := fun x => e ((h.1 x).symm)
    rw [if_neg e', if_neg e]

/-- R163: the active slot replaced. -/
theorem ringSlot_setAct (k : Channel) (j : Nat) (x : Slot) (hj : j < 4) :
    (k.setAct x).ringSlot j = if j = 0 then x else k.ringSlot j := by
  have := ringSlot_fill k 0 j x (by omega) hj
  rw [set_congr _ (ringIdx_zero k.rxCur)] at this; exact this

/-- R166: a release moves every slot one place up and puts the freed one last. -/
theorem ringSlot_release (k : Channel) (j : Nat) (hj : j < 4) :
    k.releaseActive.ringSlot j = if j = 3 then { k.act with cd := -1 } else k.ringSlot (j + 1) := by
  have h : k.releaseActive.ringSlot j = (k.setAct { k.act with cd := -1 }).ringSlot (j + 1) :=
    slot_congr (k.setAct { k.act with cd := -1 }).slots (by rw [Nat.add_comm j 1]; exact ringIdx_add _ _ _)
  rw [h]
  by_cases e : j = 3
  · subst e
    rw [if_pos rfl]
    have h2 : (k.setAct { k.act with cd := -1 }).ringSlot (3 + 1) =
        (k.setAct { k.act with cd := -1 }).act := slot_congr _ (ringIdx_four _)
    rw [h2, act_setAct]
  · rw [if_neg e, ringSlot_setAct _ _ _ (by omega), if_neg (by omega)]

/-- R163: the ring after the active slot counts down. -/
theorem ringSlot_counted (k : Channel) (j : Nat) (hj : j < 4) :
    k.countedDown.ringSlot j =
        if j = 0 then { k.act with cd := k.act.cd - 1 } else k.ringSlot j := ringSlot_setAct k j _ hj

/-- R160: the scan, place by place. -/
theorem firstFree_eq (k : Channel) : k.firstFree =
   if (k.ringSlot 0).cd = -1 then some (ringIdx k.rxCur 0) else if (k.ringSlot 1).cd = -1 then some (ringIdx k.rxCur 1)
   else if (k.ringSlot 2).cd = -1 then some (ringIdx k.rxCur 2) else if (k.ringSlot 3).cd = -1
       then some (ringIdx k.rxCur 3) else none := by
  have hr : List.range Config.noRxbuf = [0, 1, 2, 3] := rfl
  unfold Channel.firstFree Channel.ringSlot
  rw [hr]
  simp only [List.map, List.find?]
  split_ifs <;> simp_all

/-- R160: the scan finds the first free place. -/
theorem firstFree_some {k : Channel} {j : Nat} (hj : j < 4) (h : (k.ringSlot j).cd = -1) (h' : ∀ i, i < j →
    (k.ringSlot i).cd ≠ -1) :
   k.firstFree = some (ringIdx k.rxCur j) := by
  rw [firstFree_eq]
  interval_cases j
  · simp [h]
  · have := h' 0; simp_all
  · have := h' 0; have := h' 1; simp_all
  · have := h' 0; have := h' 1; have := h' 2; simp_all

/-- R162: no slot is free. -/
theorem firstFree_none {k : Channel} : k.firstFree = none ↔ ∀ j, j < 4 → (k.ringSlot j).cd ≠ -1 := by
  rw [firstFree_eq]
  constructor
  · intro h j hj
    split_ifs at h
    interval_cases j <;> assumption
  · intro h
    have h0 := h 0 (by omega); have h1 := h 1 (by omega); have h2 := h 2 (by omega); have h3 := h 3 (by omega)
    simp [h0, h1, h2, h3]

/-- R160: what a successful scan says. -/
theorem firstFree_inv {k : Channel} {i : Fin Config.noRxbuf} (h : k.firstFree = some i) :
   ∃ j, j < 4 ∧ i = ringIdx k.rxCur j ∧ (k.ringSlot j).cd = -1 ∧ ∀ m, m < j → (k.ringSlot m).cd ≠ -1 := by
  rw [firstFree_eq] at h
  split_ifs at h with h0 h1 h2 h3 <;> cases h
  · exact ⟨0, by omega, rfl, h0, by intro m hm; omega⟩
  · exact ⟨1, by omega, rfl, h1, by intro m hm; interval_cases m; exact h0⟩
  · exact ⟨2, by omega, rfl, h2, by intro m hm; interval_cases m; exacts [h0, h1]⟩
  · exact ⟨3, by omega, rfl, h3, by intro m hm; interval_cases m; exacts [h0, h1, h2]⟩

/-- R163 to R165: the four cases of a receive tick step. -/
theorem rxTicked_cases (k : Channel) : (k.act.cd ≤ 0 ∧ k.rxTicked = k) ∨ (1 < k.act.cd ∧
    k.rxTicked = k.countedDown) ∨ (k.act.cd = 1 ∧ k.frameMatches = true ∧ k.rxTicked = k.countedDown.accepted) ∨
   (k.act.cd = 1 ∧ k.frameMatches = false ∧ k.rxTicked = k.countedDown.rejected) := by
  unfold Channel.rxTicked
  split_ifs with h0 h1 h2
  · exact .inr (.inr (.inl ⟨h1, h2, rfl⟩))
  · exact .inr (.inr (.inr ⟨h1, by simpa using h2, rfl⟩))
  · exact .inr (.inl ⟨by omega, rfl⟩)
  · exact .inl ⟨by omega, rfl⟩

/-- R163: nothing arrives on a channel whose active slot does not count. -/
theorem rxTicked_idle {k : Channel} (h : k.act.cd ≤ 0) : k.rxTicked = k := by
    unfold Channel.rxTicked; rw [if_neg (by omega)]

/-- R192: a transmit tick step leaves the ring. -/
theorem txTicked_ring (k : Channel) (j : Nat) :
    k.txTicked.ringSlot j = k.ringSlot j := ring_congr (txTicked_facts k).2.2.2.2.2.1 (txTicked_facts k).2.2.2.2.2.2.1 j

/-- R167: an end-of-frame tick step leaves the ring. -/
theorem eofTicked_ring (k : Channel) (j : Nat) : k.eofTicked.ringSlot j = k.ringSlot j := by rw [eofTicked_facts]; rfl

theorem eofTicked_act (k : Channel) : k.eofTicked.act = k.act := by rw [eofTicked_facts]; rfl

/-- R40: a slot that is not ready has no unread byte. -/
theorem unread_of {k : Channel} (h : k.act.cd ≠ 0) : k.unread = 0 := by
    unfold Channel.unread Channel.activeReady; simp [h]

end Sys2Proof.Machine
end

