-- ==== Sys2Proof/Tests/Slice0.lean ====
section
/-! SUPPORT. The model's own tests: what the checks refuse, words written out from the spec's encodings, single steps with
results taken from spec/95_test_vectors.md, and a state that meets the hypotheses of each statement. -/

namespace Sys2Proof.Tests

open Sys2Proof Sys2Proof.Machine

/-! ### Helpers -/

/-- The next state of an outcome. -/
def nextOf (o : Host.Outcome State Fault Refusal) : Option State :=
  match o with
  | .next s => some s
  | .fault _ => none
  | .refused _ => none

/-- The refusal of an outcome. -/
def refusalOf (o : Host.Outcome State Fault Refusal) : Option Refusal :=
  match o with
  | .next _ => none
  | .fault _ => none
  | .refused r => some r

/-- The initial state with channel A replaced. -/
def withA (k : Channel) : State := { State.reset with chA := k }

/-- A channel whose active slot carries `b`, one payload byte, with countdown `cd` and read cursor `rd`. -/
def chanWith (cd : Int) (rd : Nat) (b : Byte) : Channel :=
  { Channel.reset with
    slots := Channel.reset.slots.set 0 { cd := cd, len := 4, data := [b, 0xF0, 0xF1, 0x00] }
    rdPtr := rd }

/-- A channel with a ready frame, one byte of it read, a second frame waiting, and two bytes to send. -/
def busyChan : Channel :=
  { chanWith 0 1 0xFF with
    slots := (chanWith 0 1 0xFF).slots.set 1 { cd := 2, len := 4, data := [0x42, 0xF0, 0xF1, 0x00] }
    wr1 := 0x11, wr15 := 0x98, txBuf := [0x11], txCd := 30, eofCd := 2 }

/-- Both channels busy. -/
def busy : State := { State.reset with chA := busyChan, chB := busyChan, pending := 0b001100, wr2 := 0x80 }

/-! ### What the checks refuse -/

/-- R160: a frame whose length is not the length given with it is ill formed. -/
theorem test_illFormed_frame : (Instr.rxFrame .A [0x2A] 2 1).wellFormed = false := by decide

/-- R160: the decoder refuses it by name. -/
theorem test_decode_lengthMismatch :
    decode 0x92 { Args.zero with bytes := [0x2A], length := 2, delay := 1 } = .error .lengthMismatch := by decide

/-- R77, L2.9: invalid words. -/
theorem test_decode_invalid :
    decode 0x90 Args.zero = .error (.invalidWord 0x90) ∧ decode 0x83 Args.zero = .error (.invalidWord 0x83) ∧
    decode 0x8F Args.zero = .error (.invalidWord 0x8F) ∧ decode 0xA0 Args.zero = .error (.invalidWord 0xA0) ∧
    decode 0xA1 Args.zero = .error (.invalidWord 0xA1) ∧ decode 0xC0 Args.zero = .error (.invalidWord 0xC0) ∧
    decode 0xFF Args.zero = .error (.invalidWord 0xFF) := by decide

/-- R73: a bare control word at another pointer names no call (log 5). -/
theorem test_staleWord : decodeCall 3 (.word 0x50) = .error (.staleWord 0x50) ∧ decodeCall 0 (.word 0x50) = .ok (.wr0 .A 0) := by
  decide

/-! ### Words written out from the encoding column of spec/opcode_table.json -/

theorem test_decode_writes_low :
    decode 0b01010000 (Args.ofValue 0xA5) = .ok (.wr0 .A 0xA5) ∧ decode 0b01000001 (Args.ofValue 0xA5) = .ok (.wr1 .B 0xA5) ∧
    decode 0b01010010 (Args.ofValue 0xA5) = .ok (.wr2 .A 0xA5) ∧ decode 0b01000011 (Args.ofValue 0xA5) = .ok (.wr3 .B 0xA5) ∧
    decode 0b01010100 (Args.ofValue 0xA5) = .ok (.wr4 .A 0xA5) ∧ decode 0b01000101 (Args.ofValue 0xA5) = .ok (.wr5 .B 0xA5) ∧
    decode 0b01010110 (Args.ofValue 0xA5) = .ok (.wr6 .A 0xA5) ∧ decode 0b01000111 (Args.ofValue 0xA5) = .ok (.wr7 .B 0xA5) := by
  decide

theorem test_decode_writes_high :
    decode 0b01011000 (Args.ofValue 0xA5) = .ok (.wr8Ctl .A 0xA5) ∧ decode 0b01001001 (Args.ofValue 0xA5) = .ok (.wr9 .B 0xA5) ∧
    decode 0b01011010 (Args.ofValue 0xA5) = .ok (.wr10 .A 0xA5) ∧ decode 0b01001011 (Args.ofValue 0xA5) = .ok (.wr11 .B 0xA5) ∧
    decode 0b01011100 (Args.ofValue 0xA5) = .ok (.wr12 .A 0xA5) ∧ decode 0b01001101 (Args.ofValue 0xA5) = .ok (.wr13 .B 0xA5) ∧
    decode 0b01011110 (Args.ofValue 0xA5) = .ok (.wr14 .A 0xA5) ∧ decode 0b01001111 (Args.ofValue 0xA5) = .ok (.wr15 .B 0xA5) ∧
    decode 0b01110110 (Args.ofValue 0xA5) = .ok (.wr8Data .A 6 0xA5) ∧
    decode 0b01101001 (Args.ofValue 0xA5) = .ok (.wr8Data .B 9 0xA5) := by decide

theorem test_decode_reads_low :
    decode 0b00010000 Args.zero = .ok (.rr0 .A) ∧ decode 0b00000001 Args.zero = .ok (.rr1 .B) ∧
    decode 0b00000010 Args.zero = .ok .rr2B ∧ decode 0b00010010 Args.zero = .ok .rr2A ∧
    decode 0b00000011 Args.zero = .ok .rr3B ∧ decode 0b00010011 Args.zero = .ok .rr3A ∧
    decode 0b00010100 Args.zero = .ok (.rr4 .A) ∧ decode 0b00000101 Args.zero = .ok (.rr5 .B) ∧
    decode 0b00010110 Args.zero = .ok (.rr6 .A) ∧ decode 0b00000111 Args.zero = .ok (.rr7 .B) := by decide

theorem test_decode_reads_high :
    decode 0b00011000 Args.zero = .ok (.rr8Ctl .A) ∧ decode 0b00001001 Args.zero = .ok (.rr9 .B) ∧
    decode 0b00011010 Args.zero = .ok (.rr10 .A) ∧ decode 0b00001011 Args.zero = .ok (.rr11 .B) ∧
    decode 0b00011100 Args.zero = .ok (.rr12 .A) ∧ decode 0b00001101 Args.zero = .ok (.rr13 .B) ∧
    decode 0b00011110 Args.zero = .ok (.rr14 .A) ∧ decode 0b00001111 Args.zero = .ok (.rr15 .B) ∧
    decode 0b00110101 Args.zero = .ok (.rr8Data .A 5) ∧ decode 0b00101010 Args.zero = .ok (.rr8Data .B 10) := by decide

theorem test_decode_host :
    decode 0b10000000 Args.zero = .ok .tick ∧
    decode 0b10010001 { Args.zero with asserted := true } = .ok (.setDcd .A true) ∧
    decode 0b10000001 Args.zero = .ok (.setDcd .B false) ∧
    decode 0b10010010 { Args.zero with bytes := [0x2A, 0x01], length := 2, delay := 5 } = .ok (.rxFrame .A [0x2A, 0x01] 2 5) := by
  decide

/-- L2.1 A5, A6, A7: only address bits 1 and 2 count. -/
theorem test_address_bits :
    decodeCall 0 (.write 0x102 0x0F) = .ok (.wr0 .A 0x0F) ∧ decodeCall 0 (.write 1 0x0F) = .ok (.wr0 .B 0x0F) ∧
    decodeCall 5 (.write 4 0x99) = .ok (.wr8Data .B 5 0x99) ∧ decodeCall 15 (.read 6) = .ok (.rr8Data .A 15) := by decide

/-- Some words of the table, placed and run as the first call after reset: each completes (log 4). -/
theorem test_placed_words :
    ∀ w ∈ [0x40, 0x42, 0x54, 0x48, 0x4F, 0x65, 0x00, 0x02, 0x12, 0x13, 0x18, 0x37, 0x80, 0x91, 0x82, 0x92],
      (nextOf (step (State.reset.withFetchWord 8 w))).isSome = true ∧ (decodeTableWord 8 w).isSome = true := by decide

/-! ### Writes: single steps -/

/-- L2.2: 0x0F selects index 15, through 0xC9 index 9 with the latch reset. -/
theorem test_wr0_pointer :
    (nextOf (exec (.wr0 .A 0x0F) State.reset)).map (·.ptr) = some 15 ∧
    (nextOf (exec (.wr0 .A 0xC9) busy)).map (fun t => (t.ptr, t.chA.txCd, t.chA.txBuf)) = some (9, 1, [0x11]) := by decide

/-- L2.2, rows 0x18 and 0xD0: abort sends the buffer at once; the clear clears both channels' bits. -/
theorem test_wr0_commands :
    (nextOf (exec (.wr0 .A 0x18) busy)).map (fun t => (t.trace, t.chA.txBuf, t.chA.txCd, t.chA.hunting)) =
      some ([.sendFrame [0x11] .A], [], -1, true) ∧
    (nextOf (exec (.wr0 .B 0xD0) busy)).map (fun t => (t.pending, t.trace, t.chB.txCd, t.chA.txCd)) = some (0, [], 1, 30) := by
  decide

/-- L2.3 W1, W2, W7, W8. -/
theorem test_stored :
    (nextOf (exec (.wr1 .A 0x11) State.reset)).map (·.chA.wr1) = some 0x11 ∧
    (nextOf (exec (.wr2 .B 0xF0) State.reset)).map (·.wr2) = some 0xF0 ∧
    (nextOf (exec (.wr6 .A 0x2A) State.reset)).map (·.chA.sdlcAddr) = some 0x2A ∧
    (nextOf (exec (.wr9 .B 0xC0) busy)).map (fun t => (t.wr9, t.pending)) = some (0xC0, 0b001100) := by decide

/-- L2.3 W3, W4, W5. -/
theorem test_wr3 :
    (nextOf (exec (.wr3 .A 0x10) State.reset)).map (·.chA.hunting) = some true ∧
    (nextOf (exec (.wr3 .A 0x00) (withA { Channel.reset with hunting := true }))).map (·.chA.hunting) = some true ∧
    (nextOf (exec (.wr3 .A 0xEF) State.reset)).map (·.chA.hunting) = some false := by decide

/-- L2.3 W6, W9. -/
theorem test_unlisted_writes :
    nextOf (exec (.wr4 .B 0x20) { busy with ptr := 4 }) = some { busy with ptr := 0 } ∧
    nextOf (exec (.wr14 .A 0x01) { busy with ptr := 14 }) = some { busy with ptr := 0 } := by decide

/-- L2.3 W10 to W13. -/
theorem test_wr15 :
    (nextOf (exec (.wr15 .A 0x08) { withA { Channel.reset with wr1 := 0x01 } with pending := 0b001000 })).map
      (fun t => (t.chA.wr15, t.trace)) = some (0x08, [.assertInterrupt]) ∧
    (nextOf (exec (.wr15 .A 0x00) { withA { Channel.reset with wr1 := 0x01 } with pending := 0b000001 })).map (·.trace) =
      some [.assertInterrupt] ∧
    (nextOf (exec (.wr15 .A 0x88) (withA { Channel.reset with wr1 := 0x01 }))).map (·.trace) = some [] ∧
    (nextOf (exec (.wr15 .A 0x08) { State.reset with pending := 0b001000 })).map (·.trace) = some [] := by decide

/-- L2.4 T1: the data write leaves the pointer, the control write consumes it. -/
theorem test_wr8 :
    (nextOf (exec (.wr8Data .A 0 0xAA) { State.reset with ptr := 5 })).map (fun t => (t.chA.txBuf, t.chA.txCd, t.ptr)) =
      some ([0xAA], 30, 5) ∧
    (nextOf (exec (.wr8Ctl .A 0xAA) { State.reset with ptr := 8 })).map (fun t => (t.chA.txBuf, t.chA.txCd, t.ptr)) =
      some ([0xAA], 30, 0) := by decide

/-- L2.4 T4, T7: the other value of P_TX_IDLE_BASE; bytes written after a latch reset. -/
theorem test_txPush :
    (Channel.reset.txPush (-1) 0xAA).txCd = 29 ∧
    ((Channel.txPush { Channel.reset with txCd := 1 } 0 0x01).txPush 0 0x02).txCd = 61 := by decide

/-! ### Reads: single steps -/

/-- L2.5 S3 to S6. -/
theorem test_rr0 :
    (nextOf (exec (.rr0 .A) (withA (chanWith 0 0 0xFF)))).map (·.returned) = some (some 0x4D) ∧
    (nextOf (exec (.rr0 .A) (withA (chanWith 0 1 0xFF)))).map (·.returned) = some (some 0x4D) ∧
    (nextOf (exec (.rr0 .A) (withA (chanWith 0 2 0xFF)))).map (·.returned) = some (some 0xCD) ∧
    (nextOf (exec (.rr0 .A) (withA (chanWith 0 3 0xFF)))).map (·.returned) = some (some 0xCD) := by decide

/-- L2.5 S6 to S8. -/
theorem test_rr1 :
    (nextOf (exec (.rr1 .A) (withA (chanWith 0 3 0xFF)))).map (·.returned) = some (some (Config.rr1Fixed ||| 0x80)) ∧
    (nextOf (exec (.rr1 .A) (withA (chanWith 0 2 0xFF)))).map (·.returned) = some (some Config.rr1Fixed) ∧
    (nextOf (exec (.rr1 .A) State.reset)).map (·.returned) = some (some Config.rr1Fixed) := ⟨rfl, rfl, rfl⟩

/-- L2.5 S9, S10, S12 to S15. -/
theorem test_other_reads :
    (nextOf (exec .rr2A busy)).map (fun t => (t.returned, t.pending)) = some (some 0xFF, 0b001100) ∧
    (nextOf (exec .rr3A { busy with pending := 0b100001 })).map (·.returned) = some (some 0x21) ∧
    (nextOf (exec .rr3B { busy with pending := 0b101101 })).map (·.returned) = some (some 0x00) ∧
    (nextOf (exec (.rr6 .A) busy)).map (·.returned) = some (some 0xFF) ∧
    (nextOf (exec (.rr10 .A) busy)).map (·.returned) = some (some 0x00) ∧
    (nextOf (exec (.rr15 .B) busy)).map (·.returned) = some (some 0x98) := by decide

/-- R133's example (E7): A_EXT before B_RX. -/
theorem test_rr2B : (nextOf (exec .rr2B { busy with wr2 := 0 })).map (fun t => (t.returned, t.pending)) =
    some (some 0x0A, 0b000100) := by decide

/-- L2.6, drain sequence, ACK 1 (two assertions), ACK 3 and ACK 4. -/
theorem test_drain :
    (nextOf (exec .rr2B { busy with wr2 := 0, pending := 0b101101 })).map (fun t => (t.returned, t.pending, t.trace)) =
      some (some 0x02, 0b101100, [.assertInterrupt, .assertInterrupt]) ∧
    (nextOf (exec .rr2B { busy with wr2 := 0, pending := 0b100100 })).map (fun t => (t.returned, t.pending, t.trace)) =
      some (some 0x0C, 0b000100, [.assertInterrupt]) ∧
    (nextOf (exec .rr2B { busy with wr2 := 0, pending := 0b000100 })).map (fun t => (t.returned, t.pending, t.trace)) =
      some (some 0x04, 0, []) := by decide

/-- L2.6: the vector table, WR2 = 0xFF and 0x80, both offsets. -/
theorem test_vectors :
    vectorBuild 0xFF 0x00 0b001 = 0xF3 ∧ vectorBuild 0xFF 0x10 0b001 = 0x9F ∧ vectorBuild 0x80 0x10 0b101 = 0xD0 ∧
    vectorBuild 0xFF 0x00 0b110 = 0xFD ∧ vectorBuild 0xFF 0x10 0b010 = 0xAF ∧ vectorBuild 0x80 0x10 0b011 = 0xB0 := by decide

/-- L2.6: under P_ACK_BRX_QUIRK = true an acknowledge of B_RX leaves it pending (log 17). -/
theorem test_quirk : (acknowledge true { busy with wr2 := 0, pending := 0b000100 }).pending = 0b000100 ∧
    (acknowledge true { busy with wr2 := 0, pending := 0b000100 }).returned = some 0x04 := by decide

/-- L2.7 X13: an inner byte in the mode "all characters", then the last byte with BRK_IE. -/
theorem test_rr8_modes :
    (nextOf (exec (.rr8Data .A 0) (withA { chanWith 0 1 0xFF with wr1 := 0x11, wr15 := 0x80 }))).map
      (fun t => (t.returned, t.pending, t.trace, t.chA.rdPtr)) = some (some 0xF0, 0b100000, [.assertInterrupt], 2) ∧
    (nextOf (exec (.rr8Data .A 0) (withA { chanWith 0 3 0xFF with wr1 := 0x11, wr15 := 0x80 }))).map
      (fun t => (t.returned, t.pending, t.trace, t.chA.rxCur, t.chA.hunting)) =
      some (some 0x00, 0b001000, [.assertInterrupt], 1, true) := by decide

/-- L2.7 X4: no data. -/
theorem test_rr8_empty :
    nextOf (exec (.rr8Data .A 0) { State.reset with ptr := 5 }) = some { State.reset with ptr := 5, returned := some 0x00 } ∧
    nextOf (exec (.rr8Ctl .B) { State.reset with ptr := 8 }) = some { State.reset with returned := some 0x00 } := by decide

/-! ### Host operations: single steps -/

/-- L2.8 L1, L2. -/
theorem test_setDcd :
    (nextOf (exec (.setDcd .B false) { State.reset with chB := { Channel.reset with wr15 := 0x08, wr1 := 0x01 } })).map
      (fun t => (t.chB.dcd, t.pending, t.trace)) = some (false, 0b000001, [.assertInterrupt]) ∧
    nextOf (exec (.setDcd .B true) State.reset) = some State.reset := by decide

/-- L2.7 X1 and program L3.3 line 17: the free slot found, and the filler bytes of P_CRC_FILL. -/
theorem test_rxFrame :
    (nextOf (exec (.rxFrame .A [0x2A] 1 2) State.reset)).map (·.chA.act) =
      some { cd := 2, len := 4, data := [0x2A, Config.crcFill.1, Config.crcFill.2, 0x00] } ∧
    (nextOf (exec (.rxFrame .A [0x2A] 1 2) busy)).map (fun t => (t.chA.slots[2].len, t.chA.slots[3].len)) = some (4, 0) :=
  ⟨rfl, by decide⟩

/-- L2.7 X8: a host duty broken. -/
theorem test_rxFrame_refused :
    refusalOf (exec (.rxFrame .B [] 0 1) State.reset) = some .hostFrameContract ∧
    refusalOf (exec (.rxFrame .B [0xFF] 1 0) State.reset) = some .hostFrameContract := by decide

/-- L2.7 X9, X10, X11: one channel's tick on which a broadcast frame arrives. -/
theorem test_tick_arrival :
    (tickChan .A (withA { chanWith 1 0 0xFF with wr1 := 0x01, wr15 := 0x10 })).trace = [.assertInterrupt, .assertInterrupt] ∧
    (tickChan .A (withA { chanWith 1 0 0xFF with wr1 := 0x09 })).pending = 0b101000 ∧
    (tickChan .A (withA { chanWith 1 0 0xFF with wr1 := 0x19 })).pending = 0b001000 ∧
    (tickChan .A (withA (chanWith 1 0 0xFF))).chA.eofCd = 11 := by decide

/-- L2.7 X6 and L2.8 L6: a mismatch, and a flush with a match in one tick. -/
theorem test_tick_mismatch_flush :
    (tickChan .A (withA (chanWith 1 0 0x41))).chA.rxCur = 1 ∧ (tickChan .A (withA (chanWith 1 0 0x41))).pending = 0 ∧
    (tickChan .A (withA { chanWith 1 0 0xFF with txBuf := [0x01], txCd := 1 })).trace = [.sendFrame [0x01] .A] ∧
    (tickChan .A (withA { chanWith 1 0 0xFF with txBuf := [0x01], txCd := 1 })).chA.hunting = false := by decide

/-- L2.7 X11, the last tick of the countdown: EofFire sets RX beside EXT. -/
theorem test_tick_eofFire :
    (tickChan .A (withA { Channel.reset with eofCd := 1, wr1 := 0x19 })).pending = 0b101000 ∧
    (tickChan .A (withA { Channel.reset with eofCd := 1, wr1 := 0x19 })).chA.eofPending = true := by decide

/-! ### Witnesses: a state and operands that meet the hypotheses of each statement, clause by clause -/

/-- A channel with no frame waiting, the cursor at slot 3 and its address 0x42. -/
def idleChan : Channel := { Channel.reset with rxCur := 3, sdlcAddr := 0x42, hunting := true }

/-- Both channels idle. -/
def idle : State := { State.reset with chA := idleChan, chB := idleChan, wr9 := 0x10 }

/-- A channel with all four slots occupied. -/
def fullChan : Channel :=
  { Channel.reset with slots := Vector.replicate 4 { cd := 5, len := 4, data := [0x42, 0xF0, 0xF1, 0x00] } }

theorem idleChan_inv : idleChan.Inv :=
  have h : ∀ j, j < 4 → idleChan.ringSlot j = Slot.empty := by decide
  { run := ⟨0, by decide, fun j hj => by rw [h j hj]; simp [Slot.empty]⟩
    waiting := fun j _ hj => by rw [h j hj]; exact .inl rfl
    active := by decide
    cursor := by decide
    bytes := fun j hj hc => by rw [h j hj] at hc; exact absurd rfl hc
    transmit := by decide
    room := Nat.zero_le _
    clear := rfl }

/-- A channel whose occupied slots each hold four bytes meets the invariant where these finite checks hold. -/
theorem inv_of_checks (k : Channel) (m : Nat) (hm : m ≤ 4) (run : ∀ j, j < 4 → ((k.ringSlot j).cd ≠ -1 ↔ j < m))
    (waiting : ∀ j, j < 4 → 0 < j → (k.ringSlot j).cd = -1 ∨ 1 ≤ (k.ringSlot j).cd) (active : -1 ≤ k.act.cd)
    (cursor : if k.act.cd = 0 then k.rdPtr < k.act.len else k.rdPtr = 0)
    (bytes : ∀ j, j < 4 → (k.ringSlot j).cd ≠ -1 → (k.ringSlot j).data.length = 4 ∧ (k.ringSlot j).len = 4)
    (transmit : k.txCd = -1 ∨ 1 ≤ k.txCd) (room : k.txBuf.length ≤ 1) (clear : k.cts = false) : k.Inv where
  run := ⟨m, hm, run⟩
  waiting := fun j h0 hj => waiting j hj h0
  active := active
  cursor := cursor
  bytes := fun j hj hc => by
    obtain ⟨h1, h2⟩ := bytes j hj hc
    rw [h1, h2]
    exact ⟨rfl, by decide, Config.four_le_rxSlotBytes⟩
  transmit := transmit
  room := room.trans Config.one_le_txBufBytes
  clear := clear

theorem busyChan_inv : busyChan.Inv :=
  inv_of_checks _ 2 (by decide) (by decide) (by decide) (by decide) (by decide) (by decide) (by decide) (by decide) rfl

theorem resetChan_inv : Channel.reset.Inv :=
  inv_of_checks _ 0 (by decide) (by decide) (by decide) (by decide) (by decide) (by decide) (by decide) (by decide) rfl

/-- A device whose channel A meets the invariant, channel B after initialization. -/
theorem withA_inv {k : Channel} (h : k.Inv) : (withA k).Inv where
  chA := h
  chB := resetChan_inv
  noTx := (by decide : State.reset.pending &&& (txBit .A ||| txBit .B) = 0)
  shadow := rfl

/-- The invariant holds of an idle and of a busy device. -/
theorem witness_inv : idle.Inv ∧ busy.Inv :=
  ⟨⟨idleChan_inv, idleChan_inv, by decide, rfl⟩, ⟨busyChan_inv, busyChan_inv, by decide, rfl⟩⟩

/-- Every state has one that follows by `n` ticks. -/
theorem afterTicks_exists (n : Nat) (s : State) : ∃ t, AfterTicks n s t := by
  induction n with
  | zero => exact ⟨s, rfl⟩
  | succ n ih => obtain ⟨u, h⟩ := ih; exact ⟨tickDevice u, u, h, rfl⟩

theorem witness_DecodeOfEncode : (Instr.rxFrame .A [0x2A] 1 1).wellFormed = true ∧ (Instr.wr8Data .B 15 0xFF).wellFormed = true := by
  decide

theorem witness_DecodedOperation : decode 0x80 Args.zero = .ok .tick := by decide

/-- Each kind of invalid word, at the edges, and the last bus word. -/
theorem witness_InvalidWords :
    (0xC0#8).toNat / 64 = 3 ∧ ((0xA0#8).toNat / 64 = 2 ∧ (0xA0#8).getLsbD 5 = true) ∧
    ((0x83#8).toNat / 64 = 2 ∧ 3 ≤ (0x83#8).toNat % 16) ∧
    ((0x90#8).toNat / 64 = 2 ∧ (0x90#8).toNat % 16 = 0 ∧ (0x90#8).getLsbD 4 = true) ∧ (0x7F#8).toNat / 64 < 2 ∧
    State.calls { State.reset with calls := [.word 0xC0] } = .word 0xC0 :: [] := by decide

theorem witness_BusAccess : 4 / 4 % 2 = 1 ∧ 2 / 4 % 2 = 0 ∧ 2 / 2 % 2 = 1 := by decide

theorem witness_StepRuns :
    State.reset.calls = [] ∧ State.calls { State.reset with calls := [.tick] } = .tick :: [] ∧
    decodeCall State.reset.ptr .tick = .ok .tick ∧ decodeCall State.reset.ptr (.word 0xFF) = .error (.invalidWord 0xFF) := by decide

theorem witness_TwoByte : State.ptr { State.reset with calls := [.write 2 0x0F, .write 2 0x88] } = 0 ∧
    State.calls { State.reset with calls := [.write 2 0x0F, .write 2 0x88] } = .write 2 ((15#4).setWidth 8) :: .write 2 0x88 :: [] ∧
    State.calls { State.reset with calls := [.write 0 0x08, .read 0] } = .write 0 ((8#4).setWidth 8) :: .read 0 :: [] := by decide

/-- Both refusals happen. -/
theorem witness_Refusals :
    exec (.rxFrame .A [] 0 1) State.reset = .refused .hostFrameContract ∧
    exec (.wr8Ctl .A 0x01) (withA { Channel.reset with txBuf := List.replicate Config.txBufBytes 0x00 }) = .refused .txBufferFull :=
  ⟨rfl, by simp [exec, execWr8Ctl, txAppend, State.ch, State.consumePtr, withA]⟩

theorem witness_EveryStepKeepsInvariant :
    State.Inv { busy with calls := [.tick] } ∧ ∃ t, step { busy with calls := [.tick] } = .next t :=
  ⟨⟨busyChan_inv, busyChan_inv, by decide, rfl⟩, _, rfl⟩

/-- One byte for each clause of WR0 and WR3. -/
theorem witness_commandFields :
    (0x0F#8).toNat / 8 % 8 = 1 ∧ (0x10#8).toNat / 8 % 8 = 2 ∧ (0x18#8).toNat / 8 % 8 = 3 ∧ (0xC0#8).toNat / 64 = 3 ∧
    (0x10#8).toNat / 16 % 2 = 1 ∧ (0xEF#8).toNat / 16 % 2 = 0 := by decide

theorem witness_StoredRegisterWrites :
    ∃ t u v, exec (.wr1 .A 0x5A) busy = .next t ∧ exec (.wr2 .A 0x33) busy = .next u ∧ exec (.wr6 .A 0x2A) busy = .next v :=
  ⟨_, _, _, rfl, rfl, rfl⟩

theorem witness_DataWriteAppends : (State.reset.ch .A).txBuf.length ≠ Config.txBufBytes := by decide

theorem witness_DataWriteFull :
    ((withA { Channel.reset with txBuf := List.replicate Config.txBufBytes 0x00 }).ch .A).txBuf.length = Config.txBufBytes := by
  simp [withA, State.ch]

theorem witness_StatusRead : (busy.ch .A).act.cd = 0 ∧ ¬ (State.reset.ch .A).act.cd = 0 := by decide

theorem witness_SpecialCondition : ((withA (chanWith 0 3 0xFF)).ch .A).unread = 1 ∧ (State.reset.ch .A).unread ≠ 1 := by decide

theorem witness_DataReadWithoutByte : (State.reset.ch .A).unread = 0 := by decide

theorem witness_DataReadInner : 2 ≤ ((withA (chanWith 0 2 0xFF)).ch .A).unread ∧
    ((withA (chanWith 0 2 0xFF)).ch .A).act.data[((withA (chanWith 0 2 0xFF)).ch .A).rdPtr]? = some 0xF1 := by decide

theorem witness_DataReadLast : ((withA (chanWith 0 3 0xFF)).ch .A).unread = 1 ∧
    ((withA (chanWith 0 3 0xFF)).ch .A).act.data[((withA (chanWith 0 3 0xFF)).ch .A).rdPtr]? = some 0x00 := by decide

theorem witness_Drain : ∃ s1 s2 s3 s4 s5, exec .rr2B busy = .next s1 ∧ exec .rr2B s1 = .next s2 ∧ exec .rr2B s2 = .next s3 ∧
    exec .rr2B s3 = .next s4 ∧ exec .rr2B s4 = .next s5 := ⟨_, _, _, _, _, rfl, rfl, rfl, rfl, rfl⟩

theorem witness_TransmitTick : (State.reset.ch .A).txCd ≤ 0 ∧ 1 < ((withA { Channel.reset with txCd := 2 }).ch .A).txCd ∧
    ((withA { Channel.reset with txCd := 1 }).ch .A).txCd = 1 := by decide

theorem witness_ReceiveTick : (busy.ch .A).act.cd ≤ 0 ∧ 1 < ((withA (chanWith 2 0 0xFF)).ch .A).act.cd := by decide

/-- A frame arrives: broadcast, addressed (address 0x00), and neither. -/
theorem witness_ArrivingFrame :
    ((withA (chanWith 1 0 0xFF)).ch .A).act.cd = 1 ∧ ((withA (chanWith 1 0 0xFF)).ch .A).act.data = 0xFF :: [0xF0, 0xF1, 0x00] ∧
    ((withA (chanWith 1 0 0x00)).ch .A).act.data = 0x00 :: [0xF0, 0xF1, 0x00] ∧ ((withA (chanWith 1 0 0x00)).ch .A).sdlcAddr = 0x00 ∧
    ((withA (chanWith 1 0 0x41)).ch .A).act.data = 0x41 :: [0xF0, 0xF1, 0x00] ∧ (0x41#8) ≠ 0xFF ∧
    (0x41#8) ≠ ((withA (chanWith 1 0 0x41)).ch .A).sdlcAddr ∧
    (∀ i : Fin 4, i ≠ ((withA (chanWith 1 0 0x41)).ch .A).rxCur → (((withA (chanWith 1 0 0x41)).ch .A).slots[i]).cd ≠ 0) := by decide

theorem witness_EndOfFrameTick : (State.reset.ch .A).eofCd = 0 ∧ 0 < (busy.ch .A).eofCd ∧
    ((withA { Channel.reset with eofCd := 1 }).ch .A).eofCd = 1 := by decide

theorem witness_EndOfFrameCountdown :
    (busy.ch .A).act.cd ≤ 0 ∧ 2 ≤ (busy.ch .A).eofCd ∧ 2 = (busy.ch .A).eofCd ∧ ∃ t, AfterTicks 2 busy t :=
  ⟨by decide, by decide, by decide, afterTicks_exists 2 busy⟩

/-- One tick too few, the last tick and a later one of a broadcast frame; an addressed frame; another. -/
theorem witness_FrameIsReadable : idle.Inv ∧ (idle.ch .B).act.cd = -1 ∧
    (∃ u t, exec (.rxFrame .B (0xFF :: []) 1 (2 : Nat)) idle = .next u ∧ AfterTicks 1 u t) ∧
    (∃ u t, exec (.rxFrame .B (0xFF :: []) 1 (2 : Nat)) idle = .next u ∧ AfterTicks 2 u t) ∧
    (∃ u t, exec (.rxFrame .B (0xFF :: []) 1 (2 : Nat)) idle = .next u ∧ AfterTicks 3 u t) ∧
    (∃ u t, exec (.rxFrame .B (0x42 :: []) 1 (1 : Nat)) idle = .next u ∧ AfterTicks 1 u t) ∧ 0x42 = (idle.ch .B).sdlcAddr ∧
    (∃ u t, exec (.rxFrame .B (0x41 :: []) 1 (1 : Nat)) idle = .next u ∧ AfterTicks 1 u t) ∧ 0x41 ≠ (idle.ch .B).sdlcAddr := by
  refine ⟨witness_inv.1, by decide, ?_, ?_, ?_, ?_, by decide, ?_, by decide⟩
  · obtain ⟨t, h⟩ := afterTicks_exists 1 (enqueueFrame .B [0xFF] 1 2 idle); exact ⟨_, t, rfl, h⟩
  · obtain ⟨t, h⟩ := afterTicks_exists 2 (enqueueFrame .B [0xFF] 1 2 idle); exact ⟨_, t, rfl, h⟩
  · obtain ⟨t, h⟩ := afterTicks_exists 3 (enqueueFrame .B [0xFF] 1 2 idle); exact ⟨_, t, rfl, h⟩
  · obtain ⟨t, h⟩ := afterTicks_exists 1 (enqueueFrame .B [0x42] 1 1 idle); exact ⟨_, t, rfl, h⟩
  · obtain ⟨t, h⟩ := afterTicks_exists 1 (enqueueFrame .B [0x41] 1 1 idle); exact ⟨_, t, rfl, h⟩

/-- One byte written, through the data address and through the control path; 29 ticks and 30 ticks. -/
theorem witness_WrittenBytes : [0xAA#8] ≠ [] ∧ (State.reset.ch .A).txCd = -1 ∧ (State.reset.ch .A).txBuf = [] ∧
    (∃ u t, AfterDataWrites .A [0xAA] State.reset u ∧ AfterTicks 29 u t) ∧
    (∃ u t, AfterDataWrites .A [0xAA] State.reset u ∧ AfterTicks 30 u t) ∧ 29 < 30 * [0xAA#8].length ∧ 30 = 30 * [0xAA#8].length := by
  refine ⟨by decide, by decide, by decide, ?_, ?_, by decide, by decide⟩
  · obtain ⟨t, h⟩ := afterTicks_exists 29 (State.reset.setCh .A (Channel.reset.txPush 0 0xAA))
    exact ⟨_, t, ⟨_, .inl rfl, rfl⟩, h⟩
  · obtain ⟨t, h⟩ := afterTicks_exists 30 (State.reset.setCh .A (Channel.reset.txPush 0 0xAA))
    exact ⟨_, t, ⟨_, .inr rfl, rfl⟩, h⟩

/-- A delivered frame with room and without. -/
theorem witness_ReceiveQueueDelivers : busy.Inv ∧ (∃ t, exec (.rxFrame .A [0x42] 1 1) busy = .next t) ∧
    (busy.ch .A).queue.length = 2 ∧ (withA fullChan).Inv ∧
    (∃ t, exec (.rxFrame .A [0x42] 1 1) (withA fullChan) = .next t) ∧ ((withA fullChan).ch .A).queue.length = 4 :=
  ⟨witness_inv.2, ⟨_, rfl⟩, by decide,
    withA_inv (inv_of_checks _ 4 (by decide) (by decide) (by decide) (by decide) (by decide) (by decide) (by decide)
      (by decide) rfl), ⟨_, rfl⟩, by decide⟩

/-- A tick that discards the oldest frame, the read of a last byte, and a tick that takes nothing. -/
theorem witness_ReceiveQueueTakes :
    (withA (chanWith 1 0 0x41)).Inv ∧ (∃ t, exec .tick (withA (chanWith 1 0 0x41)) = .next t) ∧
    ((withA (chanWith 1 0 0x41)).ch .A).act.cd = 1 ∧ ((withA (chanWith 1 0 0x41)).ch .A).frameMatches = false ∧
    (withA (chanWith 0 3 0xFF)).Inv ∧ (∃ t, exec (.rr8Data .A 0) (withA (chanWith 0 3 0xFF)) = .next t) ∧
    ((withA (chanWith 0 3 0xFF)).ch .A).unread = 1 ∧
    busy.Inv ∧ (∃ t, exec .tick busy = .next t) ∧ (busy.ch .A).act.cd = 0 :=
  ⟨withA_inv (inv_of_checks _ 1 (by decide) (by decide) (by decide) (by decide) (by decide) (by decide) (by decide)
      (by decide) rfl), ⟨_, rfl⟩, by decide, by decide,
    withA_inv (inv_of_checks _ 1 (by decide) (by decide) (by decide) (by decide) (by decide) (by decide) (by decide)
      (by decide) rfl), ⟨_, rfl⟩, by decide, witness_inv.2, ⟨_, rfl⟩, by decide⟩

theorem witness_SetDcd : true = (State.reset.ch .B).dcd ∧ false ≠ (State.reset.ch .B).dcd := by decide

/-- The first place and the last place free. -/
theorem witness_DeliveredFrame : [0x42#8].length = 1 ∧ 1 + 3 ≤ Config.rxSlotBytes ∧ (1 : Int) ≤ 1 ∧
    ((idle.ch .A).ringSlot 0).cd = -1 ∧ (((withA { fullChan with slots := fullChan.slots.set 3 Slot.empty }).ch .A).ringSlot 3).cd = -1 ∧
    (∀ i, i < 3 → (((withA { fullChan with slots := fullChan.slots.set 3 Slot.empty }).ch .A).ringSlot i).cd ≠ -1) := by decide

theorem witness_FrameToFullQueue : [0x42#8].length = 1 ∧ 1 + 3 ≤ Config.rxSlotBytes ∧ (1 : Int) ≤ 1 ∧
    (∀ j, j < 4 → (((withA fullChan).ch .A).ringSlot j).cd ≠ -1) := by decide

/-- A control access, a data access and a host operation complete. -/
theorem witness_wholeMachine : (∃ t, exec (.rr0 .A) busy = .next t) ∧ (∃ t, exec (.rr8Data .A 3) busy = .next t) ∧
    (∃ t, exec .tick busy = .next t) ∧ (∃ t, exec (.wr8Data .A 3 0x01) State.reset = .next t) ∧
    (encode (.rr0 .A)).1.getLsbD 7 = false ∧ (encode (.rr0 .A)).1.getLsbD 5 = false ∧ (encode (.rr8Data .A 3)).1.getLsbD 5 = true ∧
    (encode .tick).1.getLsbD 7 = true := ⟨⟨_, rfl⟩, ⟨_, rfl⟩, ⟨_, rfl⟩, ⟨_, rfl⟩, by decide, by decide, by decide, by decide⟩

/-- R236: a bit not set before and set after, in each way. -/
theorem witness_PendingBitsAreSet :
    (nextOf (exec (.setDcd .A false) (withA { Channel.reset with wr15 := 0x08 }))).map (fun t => t.pending &&& extBit .A) = some (extBit .A) ∧
    (nextOf (exec (.rr8Data .A 0) (withA { chanWith 0 3 0xFF with wr15 := 0x80 }))).map (fun t => t.pending &&& extBit .A) =
      some (extBit .A) ∧
    (nextOf (exec (.rr8Data .A 0) (withA { chanWith 0 0 0xFF with wr1 := 0x10 }))).map (fun t => t.pending &&& rxBit .A) = some (rxBit .A) ∧
    (tickDevice (withA { chanWith 1 0 0xFF with wr1 := 0x08 })).pending &&& rxBit .A = rxBit .A ∧
    (tickDevice (withA { Channel.reset with wr1 := 0x08, eofCd := 1 })).pending &&& rxBit .A = rxBit .A ∧
    (tickDevice (withA { Channel.reset with eofCd := 2 })).pending &&& extBit .A = extBit .A := by
  simp only [tickDevice_pending]; decide

/-- R237: a bit cleared, in both ways. -/
theorem witness_PendingBitsAreCleared :
    (nextOf (exec (.wr0 .A 0x10) busy)).map (fun t => busy.pending &&& ~~~t.pending) = some 0b001100 ∧
    (nextOf (exec .rr2B busy)).map (fun t => busy.pending &&& ~~~t.pending) = some 0b001000 := by decide

/-- R34: hunting set by a command and by a read; cleared by a match. -/
theorem witness_Hunting :
    (nextOf (exec (.wr3 .A 0x10) State.reset)).map (fun t => (State.reset.chA.hunting, t.chA.hunting)) = some (false, true) ∧
    (nextOf (exec (.rr8Data .A 0) (withA (chanWith 0 3 0xFF)))).map (·.chA.hunting) = some true ∧
    ((tickDevice (withA { chanWith 1 0 0xFF with hunting := true })).ch .A).hunting = false ∧
    ((tickDevice (withA (chanWith 1 0 0x41))).ch .A).hunting = true := by simp only [ch_tickDevice]; decide

/-- R43: an operation that asserts, one that sends, one that drops. -/
theorem witness_Events :
    (nextOf (exec .rr2B busy)).map (·.trace) = some [.assertInterrupt] ∧
    (nextOf (exec (.wr0 .A 0x18) busy)).map (·.trace) = some [.sendFrame [0x11] .A] ∧
    (nextOf (exec (.rxFrame .A [0x42] 1 1) (withA fullChan))).map (·.trace) = some [.rxDropped .A] := by decide

end Sys2Proof.Tests
end

section
/-! R35: the DCD line. An operation replaces at most one channel (a tick: both), so a field survives it when the
replacement has the field's old value; `setDCD` alone replaces a channel by one with another DCD. -/

namespace Sys2Proof.Machine

/-! ### A field through a replaced channel -/

/-- A field that the replacement of one channel leaves alone keeps its value on both channels. -/
theorem field_ch_setCh {α : Type} (f : Channel → α) {s : State} {c : Chan} {k : Channel} (h : f k = f (s.ch c))
    (d : Chan) : f ((s.setCh c k).ch d) = f (s.ch d) := by
  rw [ch_setCh]
  split
  · next hd => rw [hd, h]
  · rfl

/-- A field that an effect on one channel leaves alone keeps its value on both channels. -/
theorem field_ch_effect {α : Type} (f : Channel → α) {s : State} {c : Chan} {k : Channel} (h : f k = f (s.ch c))
    (b : BitVec Config.pendWidth) (es : List Event) (d : Chan) : f ((s.effect c k b es).ch d) = f (s.ch d) := by
  rcases eq_or_eq_other c d with rfl | rfl
  · rw [ch_effect_same, h]
  · rw [ch_effect_other]

/-! ### The DCD line of a completed operation -/

@[simp] theorem dcd_txPush (k : Channel) (base : Int) (v : Byte) : (k.txPush base v).dcd = k.dcd := rfl

theorem ch_acknowledge (q : Bool) (s : State) (d : Chan) : (acknowledge q s).ch d = s.ch d := by
  rw [acknowledge_eq]; cases d <;> rfl

/-- R35: an operation leaves the DCD line of a channel, or it is the `setDCD` of that channel. -/
theorem runs_dcd {i : Instr} {s t : State} (h : Runs i s t) (d : Chan) :
    (t.ch d).dcd = (s.ch d).dcd ∨ ∃ a, i = .setDcd d a := by
  cases h with
  | statusRead | unlistedWrite | sameDcd => left; simp
  | vectorBase | masterControl | frameDropped => left; cases d <;> rfl
  | acknowledge => left; rw [ch_acknowledge, ch_consumePtr]
  | command => left; rw [field_ch_effect Channel.dcd (by simp [commanded_facts]), ch_commanded]
  | enables | receiveControl | address | append => left; rw [field_ch_setCh Channel.dcd (by simp), ch_consumePtr]
  | appendData | frameStored => left; exact field_ch_setCh Channel.dcd (by simp) d
  | externalEnables => left; rw [field_ch_effect Channel.dcd (by simp), ch_consumePtr]
  | noByte _ _ _ _ hi => left; rcases hi with ⟨-, rfl⟩ | ⟨-, rfl⟩ <;> simp
  | pop _ c _ s' hi =>
    left
    have hs : ∀ e, s'.ch e = s.ch e := by rcases hi with ⟨-, rfl⟩ | ⟨-, rfl⟩ <;> simp
    rw [ch_returnByte, field_ch_effect Channel.dcd (by rw [hs, (popped_facts _).1]), hs]
  | tick => left; rw [ch_tickDevice, (ticked_facts _).1]
  | newDcd c a =>
    rcases eq_or_eq_other c d with rfl | rfl
    · exact .inr ⟨a, rfl⟩
    · left; rw [ch_effect_other]

/-! ### RR0 -/

/-- R131: a read of RR0 completes and returns the channel's RR0 byte. -/
theorem exec_rr0 (c : Chan) (s : State) :
    exec (.rr0 c) s = .next (s.consumePtr.returnByte (rr0Value (s.ch c))) := rfl

/-- R131, R35: the byte an RR0 read returns has the DCD line in bit 3. -/
theorem rr0_shows_dcd (c : Chan) (s : State) :
    ∃ t r, exec (.rr0 c) s = .next t ∧ t.returned = some r ∧ r.getLsbD 3 = (s.ch c).dcd := by
  obtain ⟨-, -, -, hdcd, -⟩ := rr0Value_bits (s.ch c)
  exact ⟨_, _, exec_rr0 c s, returnByte_returned _ _, hdcd⟩

/-- R270: the DCD line is high after initialization. -/
theorem reset_dcd (c : Chan) : (State.reset.ch c).dcd = true := by cases c <;> rfl

/-- Settles O49: `Runs` case by case, then RR0 bit 3, here and after initialization. -/
theorem onlySetDcdMovesTheDcdLine : Obligations.OnlySetDcdMovesTheDcdLine := by
  unfold Obligations.OnlySetDcdMovesTheDcdLine
  refine ⟨fun i s t c h hne => ?_, rr0_shows_dcd, fun c => ⟨reset_dcd c, ?_⟩⟩
  · rcases runs_dcd (exec_runs h) c with hkeep | ⟨a, hset⟩
    · exact hkeep
    · exact absurd hset (hne a)
  · simpa only [reset_dcd] using rr0_shows_dcd c State.reset

end Sys2Proof.Machine
end

section
/-! R136, R144: the fixed register reads. A status read consumes the pointer (R130) and hands back its byte; for RR3 on
channel B and for RR10 that byte is the constant 0x00, so `pending` and the channel do not enter. -/

namespace Sys2Proof.Machine

/-- R130: a status read completes; the pointer and the returned byte are all it writes. -/
theorem readStatus_eq (v : Byte) (s : State) : readStatus v s = .next { s with ptr := 0, returned := some v } := rfl

/-- R136: RR3 on channel B is the status read of 0x00. -/
theorem exec_rr3B (s : State) : exec .rr3B s = readStatus 0x00 s := rfl

/-- R144: RR10 of either channel is the status read of 0x00. -/
theorem exec_rr10 (c : Chan) (s : State) : exec (.rr10 c) s = readStatus 0x00 s := rfl

/-- Settles O55: both reads are the status read of 0x00, whose next state `readStatus_eq` gives. -/
theorem fixedReadsReturnZero : Obligations.FixedReadsReturnZero := by
  unfold Obligations.FixedReadsReturnZero
  intro c s
  constructor
  · rw [exec_rr3B, readStatus_eq]
  · rw [exec_rr10, readStatus_eq]

end Sys2Proof.Machine
end

section
/-! R210, R211: a tick in its steps. The first channel stays `tickFirst`, which the OPEN P_TICK_ORDER decides (R212). -/

namespace Sys2Proof.Machine

/-- R210: TICK completes; the model's counter advances, then the channels run from `tickFirst`. -/
theorem exec_tick (s : State) :
    exec .tick s = .next (tickFrom (tickFirst s.ticks) { s with ticks := s.ticks + 1 }) := rfl

/-- R211: the six steps of a tick, each channel's three before the next channel's. -/
theorem tickFrom_steps (first : Chan) (s : State) :
    tickFrom first s =
      eofTickStep first.other (rxTickStep first.other (txTickStep first.other
        (eofTickStep first (rxTickStep first (txTickStep first s))))) := rfl

/-- Settles O30: the first channel is `tickFirst`, and `tickFrom_steps` gives the order of the steps. -/
theorem tickRunsItsStepsInOrder : Obligations.TickRunsItsStepsInOrder := by
  unfold Obligations.TickRunsItsStepsInOrder
  intro s
  refine ⟨tickFirst s.ticks, ?_⟩
  rw [exec_tick, tickFrom_steps]

end Sys2Proof.Machine
end

section
/-! R70, R73 to R77: the decoder against the encoder. Both are read class by class, through the lemmas that say what the
word of each kind of access decodes to. -/

namespace Sys2Proof

/-- R74: decoding the word of a tick. -/
theorem decode_tick (a : Args) : decode (opWord .host false .B 0) a = .ok .tick := rfl

/-- R74: decoding the word of a `setDCD`. -/
theorem decode_setDcd (c : Chan) (a : Args) : decode (opWord .host false c 1) a = .ok (.setDcd c a.asserted) := by
  cases c <;> rfl

/-- Settles O1: the word of every operation is that of a control access, a data access or a host operation. -/
theorem decodeOfEncodeIsTheOperation : Obligations.DecodeOfEncodeIsTheOperation := by
  unfold Obligations.DecodeOfEncodeIsTheOperation
  intro i hwf
  cases i with
  | wr0 c v | wr1 c v | wr2 c v | wr3 c v | wr4 c v | wr5 c v | wr6 c v | wr7 c v | wr8Ctl c v | wr9 c v | wr10 c v
  | wr11 c v | wr12 c v | wr13 c v | wr14 c v | wr15 c v => exact decode_write c _ v
  | rr0 c | rr1 c | rr4 c | rr5 c | rr6 c | rr7 c | rr8Ctl c | rr9 c | rr10 c | rr11 c | rr12 c | rr13 c | rr14 c
  | rr15 c => exact decode_read c _ _
  | rr2A | rr3A => exact decode_read .A _ _
  | rr2B | rr3B => exact decode_read .B _ _
  | wr8Data c p v => exact decode_dataWrite c p v
  | rr8Data c p => exact decode_dataRead c p _
  | tick => exact decode_tick _
  | setDcd c a => exact decode_setDcd c _
  | rxFrame c bytes n d => exact decode_rxFrame c d (eq_of_beq hwf)

/-- R74: what the host map answers is well formed and has the word it was read from. -/
theorem hostMap_ok {k : Byte} {a : Args} {i : Instr} (hcls : opClass k = .host) (h : hostMap k a = .ok i) :
    i.wellFormed = true ∧ (encode i).1 = k := by
  have hk : ∀ {p : BitVec 4}, opData k = false → opPtr k = p → opWord .host false (opChan k) p = k := by
    rintro p hd rfl
    rw [← hcls, ← hd, opWord_eta]
  have hp : ∀ {n : Nat}, (opPtr k).toNat = n → opPtr k = BitVec.ofNat 4 n := fun h => by rw [← h]; simp
  unfold hostMap at h
  split at h
  · cases h
  · next hd =>
    have hd : opData k = false := by simpa using hd
    split at h
    · next h0 =>
      split at h <;> cases h
      next hB => exact ⟨rfl, by rw [← hk hd (hp h0), hB]; rfl⟩
    · next h1 => cases h; exact ⟨rfl, hk hd (hp h1)⟩
    · next h2 =>
      split at h <;> cases h
      next hlen => exact ⟨beq_iff_eq.2 hlen, hk hd (hp h2)⟩
    · cases h

/-- Settles O2: class by class, the maps are inverse to the encoder and `opWord_eta` puts the fields together again. -/
theorem decodedOperationHasItsWord : Obligations.DecodedOperationHasItsWord := by
  unfold Obligations.DecodedOperationHasItsWord
  intro k a i h
  have eta := opWord_eta k
  unfold decode at h
  cases hcls : opClass k <;> cases hd : opData k <;> simp only [hcls, hd] at h eta
  case host.false | host.true => exact hostMap_ok hcls h
  case reserved.false | reserved.true => cases h
  case busRead.false => cases h; exact ⟨readMap_wf _ _, (congrArg Prod.fst (encode_readMap _ _)).trans eta⟩
  case busWrite.false => cases h; exact ⟨writeMap_wf _ _ _, (congrArg Prod.fst (encode_writeMap _ _ _)).trans eta⟩
  case busRead.true | busWrite.true => cases h; exact ⟨rfl, eta⟩

/-- Settles O4: each word is one of the encoder's, and the frame has its length. -/
theorem specWordsDecode : Obligations.SpecWordsDecode := by
  unfold Obligations.SpecWordsDecode
  exact ⟨decode_read .A 2 _, decode_read .B 2 _, decode_dataRead .A 15 _, decode_write .A 15 _, decode_write .B 8 _,
    decode_dataWrite .B 5 _, decode_tick _, decode_setDcd .A _, decode_rxFrame .B 1 rfl⟩

/-! ### Invalid words (R77) -/

/-- R73: the class field is the two high bits, and bits 5, 4 and 3:0 are the other fields. -/
theorem opFields_toNat : ∀ k : Byte,
    (opClass k = .busRead ↔ k.toNat / 64 = 0) ∧ (opClass k = .busWrite ↔ k.toNat / 64 = 1) ∧
    (opClass k = .host ↔ k.toNat / 64 = 2) ∧ (opClass k = .reserved ↔ k.toNat / 64 = 3) ∧
    (opPtr k).toNat = k.toNat % 16 ∧ (opChan k = .B ↔ k.getLsbD 4 = false) := by decide

/-- R77: a host word is invalid exactly when it is none of the three host operations. -/
theorem hostMap_invalid (k : Byte) (a : Args) : hostMap k a = .error (.invalidWord k) ↔
    opData k = true ∨ 3 ≤ (opPtr k).toNat ∨ ((opPtr k).toNat = 0 ∧ opChan k ≠ .B) := by
  unfold hostMap
  split
  · next hd => simp [hd]
  · next hd =>
    split
    · next h0 => split <;> simp_all
    · next h1 => simp [hd, h1]
    · next h2 => split <;> simp [hd, h2]
    · next h0 h1 h2 =>
      have h3 : 3 ≤ (opPtr k).toNat := by
        generalize (opPtr k).toNat = n at h0 h1 h2
        by_contra hlt
        interval_cases n <;> contradiction
      simp [h3]

/-- R77: every bus word decodes. -/
theorem decode_bus {k : Byte} (a : Args) (h : opClass k = .busRead ∨ opClass k = .busWrite) :
    ∃ i, decode k a = .ok i := by
  unfold decode
  rcases h with h | h <;> rw [h] <;> exact ⟨_, rfl⟩

/-- R77: the words the decoder refuses as invalid. -/
theorem decode_invalid (k : Byte) (a : Args) : decode k a = .error (.invalidWord k) ↔
    opClass k = .reserved ∨ (opClass k = .host ∧
      (opData k = true ∨ 3 ≤ (opPtr k).toNat ∨ ((opPtr k).toNat = 0 ∧ opChan k ≠ .B))) := by
  cases hcls : opClass k with
  | busRead => simp [decode, hcls]
  | busWrite => simp [decode, hcls]
  | host => simp [decode, hcls, hostMap_invalid]
  | reserved => simp [decode, hcls]

/-- R77 (log 5): an invalid word is no stale word, so no call means it at any pointer. -/
theorem decodeCall_invalidWord {k : Byte} (ptr : BitVec 4) (hcls : opClass k = .reserved ∨ opClass k = .host)
    (h : decode k Args.least = .error (.invalidWord k)) : decodeCall ptr (.word k) = .error (.invalidWord k) := by
  have hs : wordIsStale ptr k = false := by
    rcases hcls with hcls | hcls <;> simp [wordIsStale, hcls]
  simp only [decodeCall, hs, h]
  rfl

end Sys2Proof

namespace Sys2Proof.Machine

/-! ### The step (R4, R10) -/

/-- R252: with no call waiting nothing changes. -/
theorem step_idle {s : State} (h : s.calls = []) : step s = .next s := by
  simp only [step, h]

/-- R4, R10: the first waiting call runs as the operation it names. -/
theorem step_call {s : State} {call : HostCall} {rest : List HostCall} {i : Instr} (h : s.calls = call :: rest)
    (hd : decodeCall s.ptr call = .ok i) : step s = exec i (s.accept rest) := by
  simp only [step, h, hd]

/-- R77: a call that names no operation is refused with its decode error. -/
theorem step_undecodable {s : State} {call : HostCall} {rest : List HostCall} {e : DecodeError}
    (h : s.calls = call :: rest) (hd : decodeCall s.ptr call = .error e) : step s = .refused (.undecodable e) := by
  simp only [step, h, hd]

/-- Settles O6: the three branches of `step`. -/
theorem stepRunsTheDecodedCall : Obligations.StepRunsTheDecodedCall := by
  unfold Obligations.StepRunsTheDecodedCall
  exact fun s => ⟨step_idle, fun _ _ _ => step_call, fun _ _ _ => step_undecodable⟩

/-- Settles O3: `decode_invalid` with the fields of the word as numbers; a bare invalid word is not stale. -/
theorem invalidWordsAreRefusedByName : Obligations.InvalidWordsAreRefusedByName := by
  unfold Obligations.InvalidWordsAreRefusedByName
  intro k cls invalid
  obtain ⟨hread, hwrite, hhost, hres, hptr, hchan⟩ := opFields_toNat k
  have hinv : ∀ a, decode k a = .error (.invalidWord k) ↔ invalid := fun a => by
    rw [decode_invalid, hres, hhost, hptr, Ne, hchan, Bool.not_eq_false]; rfl
  refine ⟨hinv, fun a hbus => decode_bus a ?_, fun s rest hcalls hk => step_undecodable hcalls ?_⟩
  · rw [hread, hwrite]; omega
  · refine decodeCall_invalidWord s.ptr ?_ ((hinv _).2 hk)
    rw [hres, hhost]
    exact hk.imp id And.left

/-- Settles O5: what a write and a read name, with address bits 1 and 2 as numbers. -/
theorem busAccessSelectsChannelAndRegister : Obligations.BusAccessSelectsChannelAndRegister := by
  unfold Obligations.BusAccessSelectsChannelAndRegister
  intro address v ptr c
  have hc : addrChan address = c := addrChan_eq address
  rw [decodeCall_write, decodeCall_read, addrData_eq, hc]
  constructor
  · intro hdata; simp [hdata]
  · intro hctl; simp [hctl]

/-! ### Two-byte addressing (R80) -/

/-- R101: the WR0 byte `n` sets the pointer to `n` and does nothing else. -/
theorem exec_wr0_point (c : Chan) (n : BitVec 4) (s : State) :
    exec (.wr0 c (n.setWidth 8)) s = .next { s with ptr := n } := by
  obtain ⟨hptr, hclear, habort, hlatch⟩ := wr0_bits n
  simp only [exec, execWr0, wr0Command, wr0Latch, hptr, if_neg hclear, if_neg habort, if_neg hlatch]
  rfl

/-- R50: the control address of a channel. -/
theorem ctl_address (c : Chan) :
    addrData (if c = .A then 2 else 0) = false ∧ addrChan (if c = .A then 2 else 0) = c := by
  cases c <;> decide

/-- R80: from pointer 0, a write of `n` to the control address, with any call after it. -/
theorem step_point {c : Chan} {n : BitVec 4} {s : State} {next : HostCall} {rest : List HostCall} (h0 : s.ptr = 0)
    (h : s.calls = .write (if c = .A then 2 else 0) (n.setWidth 8) :: next :: rest) :
    step s = .next { s.accept (next :: rest) with ptr := n } := by
  obtain ⟨hdata, hchan⟩ := ctl_address c
  have hd : decodeCall s.ptr (.write (if c = .A then 2 else 0) (n.setWidth 8)) = .ok (.wr0 c (n.setWidth 8)) := by
    rw [decodeCall_write, hdata, hchan, h0]; rfl
  rw [step_call h hd, exec_wr0_point]

/-- Settles O7: the first write only points; the second access decodes at index `n`. -/
theorem twoByteAddressingReachesEveryRegister : Obligations.TwoByteAddressingReachesEveryRegister := by
  unfold Obligations.TwoByteAddressingReachesEveryRegister
  intro c n v rest s h0 ctl
  obtain ⟨hdata, hchan⟩ := ctl_address c
  constructor
  · intro hcalls
    refine ⟨_, step_point h0 hcalls, ?_⟩
    rw [step_call (i := writeMap c n v) rfl (by rw [decodeCall_write, hdata, hchan]; rfl)]
    rfl
  · intro hcalls
    refine ⟨_, step_point h0 hcalls, ?_⟩
    rw [step_call (i := readMap c n) rfl (by rw [decodeCall_read, hdata, hchan]; rfl)]
    rfl

end Sys2Proof.Machine
end

section
/-! R10, R169, R190: the refusals. Each operation but a WR8 write and a delivered frame completes by its definition. -/

namespace Sys2Proof.Machine

/-- R190: an append is refused exactly when the buffer is full. -/
theorem txAppend_refused {c : Chan} {v : Byte} {s : State} {r : Refusal} :
    txAppend c v s = .refused r ↔ r = .txBufferFull ∧ (s.ch c).txBuf.length = Config.txBufBytes := by
  unfold txAppend
  split
  · next hfull => simp [hfull, eq_comm]
  · next hroom => simp [hroom]

/-- R110, R190: WR8 through either path is an append. -/
theorem exec_wr8Data (c : Chan) (p : BitVec 4) (v : Byte) (s : State) : exec (.wr8Data c p v) s = txAppend c v s := rfl
theorem exec_wr8Ctl (c : Chan) (v : Byte) (s : State) : exec (.wr8Ctl c v) s = txAppend c v s.consumePtr := rfl

/-- R160: a delivered frame that meets the host's duties is enqueued. -/
theorem exec_rxFrame {bytes : List Byte} {n : Nat} {d : Int} (h : frameDuty bytes n d = true) (c : Chan) (s : State) :
    exec (.rxFrame c bytes n d) s = .next (enqueueFrame c bytes n d s) := if_pos h

/-- R169: a delivered frame is refused exactly when it breaks a duty. -/
theorem exec_rxFrame_refused {c : Chan} {bytes : List Byte} {n : Nat} {d : Int} {s : State} {r : Refusal} :
    exec (.rxFrame c bytes n d) s = .refused r ↔ r = .hostFrameContract ∧ ¬ frameDuty bytes n d = true := by
  by_cases h : frameDuty bytes n d = true
  · simp [exec_rxFrame h, h]
  · have hr : exec (.rxFrame c bytes n d) s = .refused .hostFrameContract := if_neg h
    simp [hr, h, eq_comm]

/-- Settles O8: operation by operation; only the WR8 writes and the delivered frame have a refusing branch. -/
theorem refusalsAreTheHostDuties : Obligations.RefusalsAreTheHostDuties := by
  unfold Obligations.RefusalsAreTheHostDuties
  intro i s r
  cases i with
  | wr8Ctl c v => rw [exec_wr8Ctl, txAppend_refused]; simp
  | wr8Data c p v => rw [exec_wr8Data, txAppend_refused]; simp
  | rxFrame c bytes n d => rw [exec_rxFrame_refused, frameDuty_iff]; simp
  | _ => exact iff_of_false (fun h => by cases h) (by simp)

end Sys2Proof.Machine
end

section
/-! What an operation does to one channel, as a function of that channel alone (`Channel.after`, `exec_ch`): the claims
about a field of every channel are then claims about this function. -/

namespace Sys2Proof.Machine

/-- R142: the channel after a data read. -/
def Channel.dataRead (k : Channel) : Channel := if k.unread = 0 then k else k.popped

/-- R160, R162: the channel after the frame `x` is delivered. -/
def Channel.delivered (k : Channel) (x : Slot) : Channel :=
  match k.firstFree with
  | some i => { k with slots := k.slots.set i x }
  | none => k

/-- R160, R161: the slot that holds a delivered frame. -/
def deliveredSlot (bytes : List Byte) (n : Nat) (d : Int) : Slot :=
  { cd := d, len := n + Config.trailerLen, data := frameData bytes }

/-- The channel `d` after a completed operation, from the channel before. -/
def Channel.after (d : Chan) (k : Channel) : Instr → Channel
  | .wr0 c v => if d = c then k.commanded v else k
  | .wr1 c v => if d = c then { k with wr1 := v } else k
  | .wr3 c v => if d = c then { k with hunting := wr3Hunt v || k.hunting } else k
  | .wr6 c v => if d = c then { k with sdlcAddr := v } else k
  | .wr8Ctl c v => if d = c then k.txPush Config.txIdleBase v else k
  | .wr8Data c _ v => if d = c then k.txPush Config.txIdleBase v else k
  | .wr15 c v => if d = c then { k with wr15 := v } else k
  | .rr8Ctl c => if d = c then k.dataRead else k
  | .rr8Data c _ => if d = c then k.dataRead else k
  | .tick => k.ticked
  | .setDcd c a => if d = c then { k with dcd := a } else k
  | .rxFrame c bytes n delay => if d = c then k.delivered (deliveredSlot bytes n delay) else k
  | _ => k

theorem ch_effect (s : State) (c d : Chan) (k : Channel) (b : BitVec Config.pendWidth) (es : List Event) :
    (s.effect c k b es).ch d = if d = c then k else s.ch d := by cases c <;> cases d <;> rfl

theorem after_statusRead {i : Instr} (h : isStatusRead i = true) (d : Chan) (k : Channel) : k.after d i = k := by
  revert h; cases i <;> simp [isStatusRead, Channel.after]

theorem after_unlistedWrite {i : Instr} (h : isUnlistedWrite i = true) (d : Chan) (k : Channel) :
    k.after d i = k := by
  revert h; cases i <;> simp [isUnlistedWrite, Channel.after]

/-- R142, R72: a data read through either path. -/
theorem after_dataRead {i : Instr} {c : Chan} (h : i = .rr8Ctl c ∨ ∃ p, i = .rr8Data c p) (d : Chan) (k : Channel) :
    k.after d i = if d = c then k.dataRead else k := by
  rcases h with rfl | ⟨p, rfl⟩ <;> rfl

/-- A completed operation changes each channel by `Channel.after`, whatever the rest of the state holds. -/
theorem exec_ch {i : Instr} {s t : State} (h : exec i s = .next t) (d : Chan) : t.ch d = (s.ch d).after d i := by
  cases exec_runs h with
  | statusRead _ _ v hi => rw [after_statusRead hi, ch_returnByte, ch_consumePtr]
  | unlistedWrite _ _ hi => rw [after_unlistedWrite hi, ch_consumePtr]
  | command c v | externalEnables c v | newDcd c a =>
    rw [ch_effect]; simp only [Channel.after]; split <;> simp_all
  | enables c v | address c v | append c v | appendData c p v =>
    rw [ch_setCh]; simp only [Channel.after]; split <;> simp_all
  | receiveControl c v =>
    rw [ch_setCh, ch_consumePtr]
    simp only [Channel.after]
    cases hv : wr3Hunt v <;> split <;> simp_all
  | vectorBase | masterControl => cases d <;> rfl
  | acknowledge => rw [ch_acknowledge, ch_consumePtr]; rfl
  | noByte _ c _ s' hi h0 =>
    have hs : s'.ch d = s.ch d := by rcases hi with ⟨-, rfl⟩ | ⟨-, rfl⟩ <;> simp
    rw [after_dataRead (hi.imp And.left And.left), ch_returnByte, hs]
    split
    · next hd => subst hd; rw [Channel.dataRead, if_pos h0]
    · rfl
  | pop _ c _ s' hi h0 =>
    have hs : s'.ch d = s.ch d := by rcases hi with ⟨-, rfl⟩ | ⟨-, rfl⟩ <;> simp
    rw [after_dataRead (hi.imp And.left And.left), ch_returnByte, ch_effect, hs]
    split
    · next hd => subst hd; rw [Channel.dataRead, if_neg h0]
    · rfl
  | tick => exact ch_tickDevice d s
  | sameDcd c a _ ha =>
    simp only [Channel.after]
    split
    · next hd => subst hd; rw [ha]
    · rfl
  | frameStored c bytes n delay i _ _ hi =>
    rw [ch_setCh]
    simp only [Channel.after]
    split
    · next hd => subst hd; simp only [Channel.delivered, hi]; rfl
    · rfl
  | frameDropped c bytes n delay _ _ hi =>
    simp only [Channel.after]
    split
    · next hd => subst hd; simp only [Channel.delivered, hi]; cases d <;> rfl
    · cases d <;> rfl

end Sys2Proof.Machine
end

section
/-! What an operation leaves alone: the other channel (R250), CTS (R36), the stored registers (R29 to R33), and hunting
but for the places R34 lists. -/

namespace Sys2Proof.Machine

/-! ### The channel not addressed (R250) -/

/-- R250: an operation other than a tick leaves a channel its word does not address. -/
theorem after_unaddressed {i : Instr} {d : Chan} (hi : i ≠ .tick) (hd : d ≠ opChan (encode i).1) (k : Channel) :
    k.after d i = k := by
  have hne : ∀ {cls x c p}, (encode i).1 = opWord cls x c p → d ≠ c := fun he => by
    rwa [he, opChan_opWord] at hd
  cases i with
  | wr0 | wr1 | wr3 | wr6 | wr8Ctl | wr8Data | wr15 | rr8Ctl | rr8Data | setDcd | rxFrame => exact if_neg (hne rfl)
  | tick => exact absurd rfl hi
  | _ => rfl

/-- Settles O53: `after_unaddressed` for the other channel. -/
theorem otherChannelIsUntouched : Obligations.OtherChannelIsUntouched := by
  unfold Obligations.OtherChannelIsUntouched
  intro i s t hi h
  rw [exec_ch h, after_unaddressed hi (other_ne _)]

/-! ### CTS and the stored registers of a channel -/

theorem delivered_facts (k : Channel) (x : Slot) : (k.delivered x).cts = k.cts ∧ (k.delivered x).wr1 = k.wr1 ∧
    (k.delivered x).wr15 = k.wr15 ∧ (k.delivered x).sdlcAddr = k.sdlcAddr ∧ (k.delivered x).hunting = k.hunting ∧
    (k.delivered x).txCd = k.txCd ∧ (k.delivered x).txBuf = k.txBuf := by
  unfold Channel.delivered; split <;> simp

theorem dataRead_facts (k : Channel) : k.dataRead.cts = k.cts ∧ k.dataRead.wr1 = k.wr1 ∧
    k.dataRead.wr15 = k.wr15 ∧ k.dataRead.sdlcAddr = k.sdlcAddr ∧ k.dataRead.txCd = k.txCd ∧
    k.dataRead.txBuf = k.txBuf := by
  unfold Channel.dataRead; split <;> simp [popped_facts]

theorem txPush_facts (k : Channel) (base : Int) (v : Byte) : (k.txPush base v).cts = k.cts ∧
    (k.txPush base v).wr1 = k.wr1 ∧ (k.txPush base v).wr15 = k.wr15 ∧ (k.txPush base v).sdlcAddr = k.sdlcAddr ∧
    (k.txPush base v).hunting = k.hunting :=
  ⟨rfl, rfl, rfl, rfl, rfl⟩

/-- R31 to R33, R36: an operation leaves CTS, and each stored register or is its write. -/
theorem after_registers (d : Chan) (k : Channel) (i : Instr) : (k.after d i).cts = k.cts ∧
    ((k.after d i).wr1 = k.wr1 ∨ ∃ v, i = .wr1 d v) ∧ ((k.after d i).wr15 = k.wr15 ∨ ∃ v, i = .wr15 d v) ∧
    ((k.after d i).sdlcAddr = k.sdlcAddr ∨ ∃ v, i = .wr6 d v) := by
  cases i with
  | wr0 c v => simp only [Channel.after]; split <;> simp [commanded_facts]
  | wr1 c v | wr3 c v | wr6 c v | wr15 c v | setDcd c a => simp only [Channel.after]; split <;> simp_all
  | wr8Ctl c v | wr8Data c p v => simp only [Channel.after]; split <;> simp [txPush_facts]
  | rr8Ctl c | rr8Data c p => simp only [Channel.after]; split <;> simp [dataRead_facts]
  | tick => simp [Channel.after, ticked_facts]
  | rxFrame c bytes n delay => simp only [Channel.after]; split <;> simp [delivered_facts]
  | _ => exact ⟨rfl, .inl rfl, .inl rfl, .inl rfl⟩

/-- R131: the byte a read of RR0 returns. -/
theorem rr0_returns (c : Chan) (s : State) :
    ∃ t, exec (.rr0 c) s = .next t ∧ t.returned = some (rr0Value (s.ch c)) :=
  ⟨_, exec_rr0 c s, returnByte_returned _ _⟩

/-- Settles O54: `after_registers`, then RR0 bit 5 and the initial value. -/
theorem clearToSendNeverChanges : Obligations.ClearToSendNeverChanges := by
  unfold Obligations.ClearToSendNeverChanges
  refine ⟨fun i s t c h => ?_, fun c s => ?_, fun c => by cases c <;> rfl⟩
  · rw [exec_ch h, (after_registers c _ i).1]
  · obtain ⟨t, ht, hr⟩ := rr0_returns c s
    obtain ⟨-, -, -, -, -, hcts, -⟩ := rr0Value_bits (s.ch c)
    exact ⟨t, _, ht, hr, hcts⟩

/-! ### The chip-wide registers -/

/-- The state a data read starts from, through either path, differs from `s` in the pointer only. -/
theorem readBase_facts {i : Instr} {c : Chan} {s s' : State}
    (h : (i = .rr8Ctl c ∧ s' = s.consumePtr) ∨ (∃ p, i = .rr8Data c p) ∧ s' = s) :
    s'.wr2 = s.wr2 ∧ s'.wr9 = s.wr9 ∧ s'.pending = s.pending ∧ s'.pendingShadow = s.pendingShadow ∧
      s'.trace = s.trace := by
  rcases h with ⟨-, rfl⟩ | ⟨-, rfl⟩ <;> simp

/-- R29, R30: an operation leaves WR2 and WR9, or is their write. -/
theorem runs_chipRegisters {i : Instr} {s t : State} (h : Runs i s t) :
    (t.wr2 = s.wr2 ∨ ∃ c v, i = .wr2 c v) ∧ (t.wr9 = s.wr9 ∨ ∃ c v, i = .wr9 c v) := by
  cases h with
  | command => simp [State.commanded]
  | acknowledge => simp [acknowledge_eq]
  | noByte _ _ _ _ hi | pop _ _ _ _ hi => simp [readBase_facts hi]
  | tick => simp [tickDevice_rest]
  | vectorBase c v | masterControl c v => simp
  | _ => simp [State.emit]

/-- Settles O46: `after_registers` for the registers of a channel, `runs_chipRegisters` for the chip's. -/
theorem storedRegistersChangeOnlyByTheirWrite : Obligations.StoredRegistersChangeOnlyByTheirWrite := by
  unfold Obligations.StoredRegistersChangeOnlyByTheirWrite
  intro i s t h
  obtain ⟨h2, h9⟩ := runs_chipRegisters (exec_runs h)
  refine ⟨fun c hne => ?_, fun c hne => ?_, fun c hne => ?_, fun hne => ?_, fun hne => ?_⟩
  · obtain ⟨-, hwr1, -, -⟩ := after_registers c (s.ch c) i
    rw [exec_ch h]; exact hwr1.resolve_right fun ⟨v, hv⟩ => hne v hv
  · obtain ⟨-, -, hwr15, -⟩ := after_registers c (s.ch c) i
    rw [exec_ch h]; exact hwr15.resolve_right fun ⟨v, hv⟩ => hne v hv
  · obtain ⟨-, -, -, haddr⟩ := after_registers c (s.ch c) i
    rw [exec_ch h]; exact haddr.resolve_right fun ⟨v, hv⟩ => hne v hv
  · exact h2.resolve_right fun ⟨c, v, hv⟩ => hne c v hv
  · exact h9.resolve_right fun ⟨c, v, hv⟩ => hne c v hv

/-! ### Hunting (R34) -/

/-- R40: with unread bytes, a pop is of an inner byte exactly when two or more are unread. -/
theorem pop_inner_iff {k : Channel} (h : k.unread ≠ 0) : k.rdPtr + 1 < k.act.len ↔ 2 ≤ k.unread := by
  obtain ⟨-, hu⟩ := unread_pos rfl h
  omega

/-- R142: the three cases of a data read: no byte, an inner byte, the last byte. -/
theorem dataRead_cases (k : Channel) : (k.unread = 0 ∧ k.dataRead = k) ∨
    (2 ≤ k.unread ∧ k.act.cd = 0 ∧ k.rdPtr + 1 < k.act.len ∧ k.dataRead = { k with rdPtr := k.rdPtr + 1 }) ∨
    (k.unread = 1 ∧ k.act.cd = 0 ∧ k.dataRead = { k.releaseActive with hunting := true }) := by
  unfold Channel.dataRead Channel.popped
  by_cases h0 : k.unread = 0
  · exact .inl ⟨h0, if_pos h0⟩
  · obtain ⟨hready, -⟩ := unread_pos rfl h0
    rw [if_neg h0]
    by_cases hinner : k.rdPtr + 1 < k.act.len
    · exact .inr (.inl ⟨(pop_inner_iff h0).1 hinner, hready, hinner, if_pos hinner⟩)
    · have hlast : ¬ 2 ≤ k.unread := mt (pop_inner_iff h0).2 hinner
      exact .inr (.inr ⟨by omega, hready, if_neg hinner⟩)

/-- R34, R142: hunting after a data read. -/
theorem dataRead_hunting (k : Channel) : k.dataRead.hunting = (decide (k.unread = 1) || k.hunting) := by
  rcases dataRead_cases k with ⟨h0, e⟩ | ⟨h2, -, -, e⟩ | ⟨h1, -, e⟩ <;> rw [e]
  · simp [h0]
  · have h1 : k.unread ≠ 1 := by omega
    simp [h1]
  · simp [h1]

/-- Settles O50: hunting of the channel after each operation, then RR0 bit 4. -/
theorem huntingChangesOnlyWhereListed : Obligations.HuntingChangesOnlyWhereListed := by
  unfold Obligations.HuntingChangesOnlyWhereListed
  refine ⟨fun i s t c h => ?_, fun c s => ?_⟩
  · intro k clears sets
    rw [exec_ch h]
    change (k.after c i).hunting = true ↔ _
    simp only [clears, sets]
    cases i with
    | tick =>
      by_cases hcd : k.act.cd = 1 <;> by_cases hm : k.frameMatches = true <;>
        simp [Channel.after, ticked_hunting, hcd, hm]
    | wr0 d v =>
      obtain ⟨-, -, habort, -⟩ := wr0_fields v
      rcases eq_or_ne d c with rfl | hd
      · simpa [Channel.after, commanded_hunting] using or_congr_left habort
      · simp [Channel.after, hd, hd.symm]
    | wr3 d v =>
      rcases eq_or_ne d c with rfl | hd
      · simp [Channel.after, wr3Hunt]
      · simp [Channel.after, hd, hd.symm]
    | rr8Ctl d | rr8Data d p =>
      rcases eq_or_ne d c with rfl | hd
      · simp [Channel.after, dataRead_hunting]
      · simp [Channel.after, hd, hd.symm]
    | rxFrame d bytes n delay => simp only [Channel.after]; split <;> simp [delivered_facts]
    | wr8Ctl d v | wr8Data d p v => simp only [Channel.after]; split <;> simp [txPush_facts]
    | wr1 d v | wr6 d v | wr15 d v | setDcd d a => simp only [Channel.after]; split <;> simp
    | _ => simp [Channel.after]
  · obtain ⟨t, ht, hr⟩ := rr0_returns c s
    obtain ⟨-, -, -, -, hhunt, -⟩ := rr0Value_bits (s.ch c)
    exact ⟨t, _, ht, hr, hhunt⟩

end Sys2Proof.Machine
end

section
/-! R45 (1): the run of occupied slots, as a number of slots (`Channel.Holds`), and what each change of the ring does to
it. The invariant and the receive queue both follow it. -/

namespace Sys2Proof.Machine

/-- R45 (1): exactly the first `m` slots in ring order from the cursor are occupied. -/
def Channel.Holds (k : Channel) (m : Nat) : Prop := m ≤ 4 ∧ ∀ j, j < 4 → ((k.ringSlot j).cd ≠ -1 ↔ j < m)

theorem holds_congr {k l : Channel} {m : Nat} (h : k.Holds m) (hs : l.slots = k.slots) (hc : l.rxCur = k.rxCur) :
    l.Holds m :=
  ⟨h.1, fun j hj => by rw [ring_congr hs hc]; exact h.2 j hj⟩

/-- R45 (1): the active slot is occupied exactly when a slot is. -/
theorem Channel.Holds.act {k : Channel} {m : Nat} (h : k.Holds m) : k.act.cd ≠ -1 ↔ 0 < m := by
  rw [act_eq]; exact h.2 0 (by omega)

/-- R160: with a run of `m` slots, the first free slot stands `m` places after the cursor. -/
theorem Channel.Holds.firstFree {k : Channel} {m : Nat} (h : k.Holds m) (hm : m < 4) :
    k.firstFree = some (ringIdx k.rxCur m) :=
  firstFree_some hm (by_contra fun hc => (lt_irrefl m) ((h.2 m hm).1 hc)) fun i hi => (h.2 i (by omega)).2 hi

/-- R162: with four slots occupied none is free. -/
theorem Channel.Holds.firstFree_full {k : Channel} (h : k.Holds 4) : k.firstFree = none :=
  firstFree_none.2 fun j hj => (h.2 j hj).2 hj

/-- R160: a delivered frame lengthens the run by one slot, at its end. -/
theorem Channel.Holds.fill {k : Channel} {m : Nat} (h : k.Holds m) (hm : m < 4) {x : Slot} (hx : x.cd ≠ -1) :
    Channel.Holds { k with slots := k.slots.set (ringIdx k.rxCur m) x } (m + 1) := by
  refine ⟨hm, fun j hj => ?_⟩
  rw [ringSlot_fill k m j x hm hj]
  split
  · next hjm => exact iff_of_true hx (by omega)
  · rw [h.2 j hj]; omega

/-- R163: the run stays when the active slot is replaced by one that is occupied too. -/
theorem Channel.Holds.setAct {k : Channel} {m : Nat} (h : k.Holds m) {x : Slot} (hx : x.cd ≠ -1)
    (hact : k.act.cd ≠ -1) : (k.setAct x).Holds m := by
  refine ⟨h.1, fun j hj => ?_⟩
  rw [ringSlot_setAct k j x hj]
  split
  · next h0 => subst h0; exact iff_of_true hx (h.act.1 hact)
  · exact h.2 j hj

/-- R166: a release shortens the run by one slot, at its front. -/
theorem Channel.Holds.release {k : Channel} {m : Nat} (h : k.Holds (m + 1)) : k.releaseActive.Holds m := by
  have hm := h.1
  refine ⟨by omega, fun j hj => ?_⟩
  rw [ringSlot_release k j hj]
  split
  · next h3 => exact iff_of_false (fun hne => hne rfl) (by omega)
  · rw [h.2 (j + 1) (by omega)]; omega

/-- R45 (1): with the active slot occupied the run is not empty. -/
theorem Channel.Holds.exists_succ {k : Channel} {m : Nat} (h : k.Holds m) (hocc : k.act.cd ≠ -1) :
    ∃ n, m = n + 1 :=
  Nat.exists_eq_succ_of_ne_zero (h.act.1 hocc).ne'

/-- R166: the slot after the active one becomes the active one. -/
theorem releaseActive_act (k : Channel) : k.releaseActive.act = k.ringSlot 1 := by
  rw [act_eq, ringSlot_release k 0 (by decide)]; rfl

/-- R163, R166: a release forgets what the active slot counted. -/
theorem releaseActive_countedDown (k : Channel) : k.countedDown.releaseActive = k.releaseActive := by
  simp [Channel.releaseActive, Channel.countedDown, Channel.setAct, Channel.act]

end Sys2Proof.Machine
end

section
/-! R45: the invariant. `Channel.Inv` is kept by each change of a channel, so by `Channel.after`, so by a step. -/

namespace Sys2Proof.Machine

theorem Channel.Inv.holds {k : Channel} (h : k.Inv) : ∃ m, k.Holds m := h.run

/-- R45 (3): the read cursor is 0 unless the active slot is ready. -/
theorem Channel.Inv.rdPtr_zero {k : Channel} (h : k.Inv) (hcd : k.act.cd ≠ 0) : k.rdPtr = 0 := by
  have hcur := h.cursor
  rwa [if_neg hcd] at hcur

/-- R45: the invariant speaks of the receive path, the transmit path and CTS only. -/
theorem Channel.Inv.congr {k l : Channel} (h : k.Inv) (hs : l.slots = k.slots) (hc : l.rxCur = k.rxCur)
    (hr : l.rdPtr = k.rdPtr) (ht : l.txCd = -1 ∨ 1 ≤ l.txCd) (hb : l.txBuf.length ≤ Config.txBufBytes)
    (hcts : l.cts = k.cts) : l.Inv := by
  have hring : ∀ j, l.ringSlot j = k.ringSlot j := ring_congr hs hc
  have hact : l.act = k.act := by rw [act_eq, act_eq, hring]
  exact {
    run := by obtain ⟨m, hm⟩ := h.holds; exact ⟨m, holds_congr hm hs hc⟩
    waiting := fun j => by rw [hring]; exact h.waiting j
    active := hact ▸ h.active
    cursor := by rw [hact, hr]; exact h.cursor
    bytes := fun j => by rw [hring]; exact h.bytes j
    transmit := ht
    room := hb
    clear := hcts.trans h.clear }

/-- R163: the active slot one tick nearer, arrived or not. -/
theorem Channel.Inv.countedDown {k : Channel} (h : k.Inv) (hcd : 0 < k.act.cd) : k.countedDown.Inv := by
  have hocc : k.act.cd ≠ -1 := by omega
  obtain ⟨m, hm⟩ := h.holds
  obtain ⟨hdata, hlen, hcap⟩ := h.bytes 0 (by decide) (act_eq k ▸ hocc)
  rw [← act_eq] at hdata hlen hcap
  have hact : k.countedDown.act = { k.act with cd := k.act.cd - 1 } := act_setAct k _
  have hrd := h.rdPtr_zero (by omega)
  exact {
    run := ⟨m, hm.setAct (by simp; omega) hocc⟩
    waiting := fun j h0 hj => by rw [ringSlot_counted k j hj, if_neg (by omega)]; exact h.waiting j h0 hj
    active := by rw [hact]; change -1 ≤ k.act.cd - 1; omega
    cursor := by
      change if _ then k.rdPtr < _ else k.rdPtr = 0
      rw [hrd, hact]
      split
      · exact Nat.zero_lt_of_lt hlen
      · rfl
    bytes := fun j hj => by
      rw [ringSlot_counted k j hj]
      split
      · exact fun _ => ⟨hdata, hlen, hcap⟩
      · exact h.bytes j hj
    transmit := h.transmit
    room := h.room
    clear := h.clear }

/-- R166: the active slot freed, the cursor at the next one. -/
theorem Channel.Inv.release {k : Channel} (h : k.Inv) (hocc : k.act.cd ≠ -1) : k.releaseActive.Inv := by
  obtain ⟨m, hm⟩ := h.holds
  obtain ⟨n, rfl⟩ := hm.exists_succ hocc
  have hact := releaseActive_act k
  have hnext := h.waiting 1 (by decide) (by decide)
  exact {
    run := ⟨n, hm.release⟩
    waiting := fun j h0 hj => by
      rw [ringSlot_release k j hj]
      split
      · exact .inl rfl
      · exact h.waiting (j + 1) (by omega) (by change j < 4 at hj; change j + 1 < 4; omega)
    active := by rw [hact]; omega
    cursor := by rw [hact, if_neg (by omega)]; rfl
    bytes := fun j hj hne => by
      rw [ringSlot_release k j hj] at hne ⊢
      split at hne
      · exact absurd rfl hne
      · next h3 => rw [if_neg h3]; exact h.bytes (j + 1) (by change j < 4 at hj; change j + 1 < 4; omega) hne
    transmit := h.transmit
    room := h.room
    clear := h.clear }

/-- R142: the read cursor moves inside the active slot. -/
theorem Channel.Inv.advance {k : Channel} (h : k.Inv) (hready : k.act.cd = 0) (hlt : k.rdPtr + 1 < k.act.len) :
    Channel.Inv { k with rdPtr := k.rdPtr + 1 } where
  run := h.run
  waiting := h.waiting
  active := h.active
  cursor := (if_pos hready).symm ▸ hlt
  bytes := h.bytes
  transmit := h.transmit
  room := h.room
  clear := h.clear

/-! ### The ring after a delivered frame -/

theorem delivered_eq {k : Channel} {m : Nat} (h : k.Holds m) (hm : m < 4) (x : Slot) :
    k.delivered x = { k with slots := k.slots.set (ringIdx k.rxCur m) x } := by
  simp only [Channel.delivered, h.firstFree hm]

theorem delivered_full {k : Channel} (h : k.Holds 4) (x : Slot) : k.delivered x = k := by
  simp only [Channel.delivered, h.firstFree_full]

/-- R161, R169: what the duties say of the slot of a delivered frame. -/
theorem deliveredSlot_filled {bytes : List Byte} {n : Nat} {d : Int} (h : frameDuty bytes n d = true) :
    1 ≤ (deliveredSlot bytes n d).cd ∧ (deliveredSlot bytes n d).data.length = (deliveredSlot bytes n d).len ∧
      Config.trailerLen < (deliveredSlot bytes n d).len ∧ (deliveredSlot bytes n d).len ≤ Config.rxSlotBytes := by
  obtain ⟨hlen, hpos, hcap, hd⟩ := (frameDuty_iff bytes n d).1 h
  refine ⟨hd, ?_, ?_, hcap⟩
  · simp [deliveredSlot, frameData, hlen]
  · simp only [deliveredSlot, Config.trailerLen_eq]; omega

/-- R160, R162: a delivered frame is stored behind the others or dropped. -/
theorem Channel.Inv.delivered {k : Channel} (h : k.Inv) {x : Slot} (hx : 1 ≤ x.cd) (hdata : x.data.length = x.len ∧
    Config.trailerLen < x.len ∧ x.len ≤ Config.rxSlotBytes) : (k.delivered x).Inv := by
  obtain ⟨m, hm⟩ := h.holds
  rcases hm.1.lt_or_eq with hlt | rfl
  · rw [delivered_eq hm hlt]
    have hring := fun j hj => ringSlot_fill k m j x hlt hj
    have hact : Channel.act { k with slots := k.slots.set (ringIdx k.rxCur m) x } = if 0 = m then x else k.act := by
      rw [act_eq, hring 0 (by decide), act_eq k]
    exact {
      run := ⟨m + 1, hm.fill hlt (by omega)⟩
      waiting := fun j h0 hj => by
        rw [hring j hj]
        split
        · exact .inr hx
        · exact h.waiting j h0 hj
      active := by rw [hact]; split; exacts [by omega, h.active]
      cursor := by
        rw [hact]
        split
        · next h0 =>
          have hfree : ¬ k.act.cd ≠ -1 := fun hne => by have := hm.act.1 hne; omega
          rw [if_neg (by omega)]
          exact h.rdPtr_zero (by omega)
        · exact h.cursor
      bytes := fun j hj => by
        rw [hring j hj]
        split
        · exact fun _ => hdata
        · exact h.bytes j hj
      transmit := h.transmit
      room := h.room
      clear := h.clear }
  · rwa [delivered_full hm]

/-! ### The changes of a channel -/

theorem Channel.Inv.txTicked {k : Channel} (h : k.Inv) : k.txTicked.Inv := by
  obtain ⟨-, hcts, -, -, -, hslots, hcur, hrd, -⟩ := txTicked_facts k
  have htx : (k.txTicked.txCd = -1 ∨ 1 ≤ k.txTicked.txCd) ∧ k.txTicked.txBuf.length ≤ Config.txBufBytes := by
    have ht := h.transmit
    have hb := h.room
    unfold Channel.txTicked
    split_ifs
    · exact ⟨.inl rfl, Nat.zero_le _⟩
    · exact ⟨.inr (by change 1 ≤ k.txCd - 1; omega), hb⟩
    · exact ⟨ht, hb⟩
  exact h.congr hslots hcur hrd htx.1 htx.2 hcts

/-- R163 to R165: the four cases of a receive tick step. -/
theorem Channel.Inv.rxTicked {k : Channel} (h : k.Inv) : k.rxTicked.Inv := by
  rcases rxTicked_cases k with ⟨-, e⟩ | ⟨hcd, e⟩ | ⟨hcd, -, e⟩ | ⟨hcd, -, e⟩ <;> rw [e]
  · exact h
  · exact h.countedDown (by omega)
  · have hrd := h.rdPtr_zero (by omega)
    exact (h.countedDown (by omega)).congr rfl rfl hrd.symm h.transmit h.room rfl
  · have hr := h.release (by omega)
    rw [← releaseActive_countedDown] at hr
    exact hr.congr rfl rfl rfl h.transmit h.room rfl

theorem Channel.Inv.eofTicked {k : Channel} (h : k.Inv) : k.eofTicked.Inv := by
  rw [eofTicked_facts]
  exact h.congr rfl rfl rfl h.transmit h.room rfl

theorem Channel.Inv.ticked {k : Channel} (h : k.Inv) : k.ticked.Inv := h.txTicked.rxTicked.eofTicked

/-- R142: an inner byte, the last byte, or no byte. -/
theorem Channel.Inv.dataRead {k : Channel} (h : k.Inv) : k.dataRead.Inv := by
  rcases dataRead_cases k with ⟨-, e⟩ | ⟨-, hready, hinner, e⟩ | ⟨-, hready, e⟩ <;> rw [e]
  · exact h
  · exact h.advance hready hinner
  · exact (h.release (by omega)).congr rfl rfl rfl h.transmit h.room rfl

theorem Channel.Inv.commanded {k : Channel} (h : k.Inv) (v : Byte) : (k.commanded v).Inv := by
  obtain ⟨-, hcts, -, -, -, hslots, hcur, hrd⟩ := commanded_facts k v
  have htx : ((k.commanded v).txCd = -1 ∨ 1 ≤ (k.commanded v).txCd) ∧
      (k.commanded v).txBuf.length ≤ Config.txBufBytes := by
    have ht := h.transmit
    have hb := h.room
    unfold Channel.commanded
    split_ifs
    · exact ⟨.inr le_rfl, Nat.zero_le _⟩
    · exact ⟨.inl rfl, Nat.zero_le _⟩
    · exact ⟨.inr le_rfl, hb⟩
    · exact ⟨ht, hb⟩
  exact h.congr hslots hcur hrd htx.1 htx.2 hcts

/-- R190: an append to a buffer with room. -/
theorem Channel.Inv.txPush {k : Channel} (h : k.Inv) (hroom : k.txBuf.length ≠ Config.txBufBytes) (v : Byte) :
    (k.txPush Config.txIdleBase v).Inv := by
  refine h.congr rfl rfl rfl ?_ ?_ rfl
  · right
    simp only [Channel.txPush, Config.txIdleBase_eq, Config.txByteTicks_eq]
    split <;> omega
  · have hb := h.room
    simp only [Channel.txPush, List.length_append, List.length_singleton]
    omega

/-- R169: a delivered frame that is not refused meets the duties. -/
theorem frameDuty_of_next {c : Chan} {bytes : List Byte} {n : Nat} {d : Int} {s t : State}
    (h : exec (.rxFrame c bytes n d) s = .next t) : frameDuty bytes n d = true := by
  by_contra hn
  cases h.symm.trans (exec_rxFrame_refused.2 ⟨rfl, hn⟩)

/-- R45: a completed operation keeps the invariant of every channel. -/
theorem exec_keeps_channelInv {i : Instr} {s t : State} (h : exec i s = .next t) {d : Chan} (hs : (s.ch d).Inv) :
    (t.ch d).Inv := by
  rw [exec_ch h]
  cases i with
  | wr8Ctl c v =>
    have hroom := (txAppend_next h).1
    simp only [Channel.after]; split
    · next hd => subst hd; rw [ch_consumePtr] at hroom; exact hs.txPush hroom v
    · exact hs
  | wr8Data c p v =>
    have hroom := (txAppend_next h).1
    simp only [Channel.after]; split
    · next hd => subst hd; exact hs.txPush hroom v
    · exact hs
  | rxFrame c bytes n delay =>
    obtain ⟨hcd, hfilled⟩ := deliveredSlot_filled (frameDuty_of_next h)
    simp only [Channel.after]; split
    · exact hs.delivered hcd hfilled
    · exact hs
  | wr0 c v => simp only [Channel.after]; split; exacts [hs.commanded v, hs]
  | rr8Ctl c | rr8Data c p => simp only [Channel.after]; split; exacts [hs.dataRead, hs]
  | tick => exact hs.ticked
  | wr1 c v | wr3 c v | wr6 c v | wr15 c v | setDcd c a =>
    simp only [Channel.after]; split
    · exact hs.congr rfl rfl rfl hs.transmit hs.room rfl
    · exact hs
  | _ => exact hs

/-! ### The invariant of the device -/

theorem State.Inv.ch {s : State} (h : s.Inv) (c : Chan) : (s.ch c).Inv := by
  cases c
  · exact h.chA
  · exact h.chB

/-- R28: an operation leaves the shadow or zeroes it. -/
theorem runs_shadow {i : Instr} {s t : State} (h : Runs i s t) :
    t.pendingShadow = s.pendingShadow ∨ t.pendingShadow = 0 := by
  cases h with
  | command c v => simp only [effect_pendingShadow, State.commanded]; split <;> simp
  | acknowledge => simp [acknowledge_eq]
  | noByte _ _ _ _ hi | pop _ _ _ _ hi => simp [readBase_facts hi]
  | tick => simp [tickDevice_rest]
  | _ => simp [State.emit]

/-- R243: no transmit cause is pending exactly when neither channel's is. -/
theorem noTx_iff (p : BitVec Config.pendWidth) :
    p &&& (txBit .A ||| txBit .B) = 0 ↔ p &&& txBit .A = 0 ∧ p &&& txBit .B = 0 := by
  revert p; decide

/-- R45: a completed operation keeps the invariant. -/
theorem exec_keeps_inv {i : Instr} {s t : State} (h : exec i s = .next t) (hs : s.Inv) : t.Inv := by
  have htx := (noTx_iff _).1 hs.noTx
  exact {
    chA := exec_keeps_channelInv h (hs.ch .A)
    chB := exec_keeps_channelInv h (hs.ch .B)
    noTx := (noTx_iff _).2 ⟨runs_txBit (exec_runs h) .A htx.1, runs_txBit (exec_runs h) .B htx.2⟩
    shadow := (runs_shadow (exec_runs h)).elim (·.trans hs.shadow) id }

/-- What a step does that gives a next state: nothing, or it runs an operation with the later calls waiting. -/
theorem step_next {s t : State} (h : step s = .next t) : t = s ∨ ∃ i rest, exec i (s.accept rest) = .next t := by
  unfold step at h
  split at h
  · cases h; exact .inl rfl
  · split at h
    · exact .inr ⟨_, _, h⟩
    · cases h

/-- Settles O12: taking a call keeps every field the invariant reads, and `exec_keeps_inv` does the rest. -/
theorem everyStepKeepsInvariant : Obligations.EveryStepKeepsInvariant := by
  unfold Obligations.EveryStepKeepsInvariant
  intro s t hs h
  rcases step_next h with rfl | ⟨i, rest, hi⟩
  · exact hs
  · exact exec_keeps_inv hi ⟨hs.chA, hs.chB, hs.noTx, hs.shadow⟩

/-- R270: every slot of a channel is free after initialization. -/
theorem reset_ringSlot (j : Nat) : Channel.reset.ringSlot j = Slot.empty := by
  simp [Channel.ringSlot, Channel.reset]

/-- R270, R45: the invariant of a channel after initialization. -/
theorem Channel.reset_inv : Channel.reset.Inv where
  run := ⟨0, Nat.zero_le _, fun j _ => by
    rw [reset_ringSlot]; exact iff_of_false (fun h => h rfl) (Nat.not_lt_zero j)⟩
  waiting := fun j _ _ => by rw [reset_ringSlot]; exact .inl rfl
  active := by decide
  cursor := by decide
  bytes := fun j _ h => by rw [reset_ringSlot] at h; exact absurd rfl h
  transmit := .inl rfl
  room := Nat.zero_le _
  clear := rfl

/-- Settles O11: both channels start with no frame and an idle transmitter, and no cause is pending. -/
theorem resetMeetsInvariant : Obligations.ResetMeetsInvariant := by
  unfold Obligations.ResetMeetsInvariant
  exact { chA := Channel.reset_inv, chB := Channel.reset_inv, noTx := by decide, shadow := rfl }

end Sys2Proof.Machine
end

section
/-! R45 (1): the receive queue as a list. With `m` slots occupied it is the first `m` slots of the ring, so each change
of the ring is a change at one end of that list. -/

namespace Sys2Proof.Machine

/-- The waiting frames of a channel, oldest first. -/
def Channel.frames (k : Channel) : List (Nat × List Byte) := k.queue.map Slot.frame

/-- The frames a run of `m` slots holds. -/
theorem Channel.Holds.frames {k : Channel} {m : Nat} (h : k.Holds m) :
    k.frames = (List.range m).map fun j => (k.ringSlot j).frame := by
  have hocc : (List.range 4).filter (fun j => decide ((k.ringSlot j).cd ≠ -1)) = List.range m := by
    rw [List.filter_congr (q := fun j => decide (j < m)) fun j hj => decide_eq_decide.2 (h.2 j (List.mem_range.1 hj))]
    have hm := h.1
    interval_cases m <;> rfl
  simp only [Channel.frames, Channel.queue, List.filter_map, List.map_map]
  exact congrArg _ hocc

/-- Two channels with equally many occupied slots of the same frames have the same queue. -/
theorem Channel.Holds.frames_congr {k l : Channel} {m : Nat} (hk : k.Holds m) (hl : l.Holds m)
    (h : ∀ j, j < 4 → (l.ringSlot j).frame = (k.ringSlot j).frame) : l.frames = k.frames := by
  rw [hk.frames, hl.frames]
  exact List.map_congr_left fun j hj => h j ((List.mem_range.1 hj).trans_le hk.1)

/-- The queue is read from the slots and the cursor. -/
theorem frames_of_ring {k l : Channel} (h : ∀ j, l.ringSlot j = k.ringSlot j) : l.frames = k.frames := by
  simp only [Channel.frames, Channel.queue, funext h]

theorem Channel.Holds.frames_length {k : Channel} {m : Nat} (h : k.Holds m) : k.frames.length = m := by
  simp [h.frames]

/-- R160: a frame stored behind the run is the last of the queue. -/
theorem Channel.Holds.frames_fill {k : Channel} {m : Nat} (h : k.Holds m) (hm : m < 4) {x : Slot} (hx : x.cd ≠ -1) :
    Channel.frames { k with slots := k.slots.set (ringIdx k.rxCur m) x } = k.frames ++ [x.frame] := by
  rw [(h.fill hm hx).frames, h.frames, List.range_succ, List.map_append]
  congr 1
  · refine List.map_congr_left fun j hj => ?_
    have hj := List.mem_range.1 hj
    rw [ringSlot_fill k m j x hm (by omega), if_neg (by omega)]
  · rw [List.map_singleton, ringSlot_fill k m m x hm hm, if_pos rfl]

/-- R166: a release takes the oldest frame. -/
theorem Channel.Holds.frames_release {k : Channel} {m : Nat} (h : k.Holds m) (hocc : k.act.cd ≠ -1) :
    k.releaseActive.frames = k.frames.tail := by
  obtain ⟨n, rfl⟩ := h.exists_succ hocc
  have hn := h.1
  rw [h.release.frames, h.frames, List.range_succ_eq_map, List.map_cons, List.tail_cons, List.map_map]
  refine List.map_congr_left fun j hj => ?_
  have hj := List.mem_range.1 hj
  rw [ringSlot_release k j (by omega), if_neg (by omega)]
  rfl

/-- R163: counting down keeps the queue. -/
theorem Channel.Holds.frames_countedDown {k : Channel} {m : Nat} (h : k.Holds m) (hcd : 0 < k.act.cd) :
    k.countedDown.frames = k.frames := by
  refine h.frames_congr (h.setAct (by simp; omega) (by omega)) fun j hj => ?_
  rw [ringSlot_counted k j hj]
  split
  · next h0 => rw [h0, act_eq]; rfl
  · rfl

/-! ### The changes of a channel -/

/-- R163 to R165: a receive tick step takes the oldest frame exactly when it arrives and mismatches. -/
theorem Channel.Holds.frames_rxTicked {k : Channel} {m : Nat} (h : k.Holds m) :
    k.rxTicked.frames = if k.act.cd = 1 ∧ k.frameMatches = false then k.frames.tail else k.frames := by
  rcases rxTicked_cases k with ⟨hcd, e⟩ | ⟨hcd, e⟩ | ⟨hcd, hmatch, e⟩ | ⟨hcd, hmiss, e⟩ <;> rw [e]
  · rw [if_neg (by omega)]
  · rw [if_neg (by omega), h.frames_countedDown (by omega)]
  · rw [if_neg (by simp [hmatch]), ← h.frames_countedDown (by omega)]
    exact frames_of_ring fun _ => rfl
  · rw [if_pos ⟨hcd, hmiss⟩, ← h.frames_release (by omega), ← releaseActive_countedDown]
    exact frames_of_ring fun _ => rfl

/-- R211: a tick of a channel takes the oldest frame in its receive step only. -/
theorem Channel.Holds.frames_ticked {k : Channel} {m : Nat} (h : k.Holds m) :
    k.ticked.frames = if k.act.cd = 1 ∧ k.frameMatches = false then k.frames.tail else k.frames := by
  obtain ⟨-, -, -, -, -, hslots, hcur, -, -, -, hmatch⟩ := txTicked_facts k
  rw [Channel.ticked, frames_of_ring (eofTicked_ring _), (holds_congr h hslots hcur).frames_rxTicked,
    frames_of_ring (txTicked_ring k), txTicked_act, hmatch]

/-- R142, R166: a data read takes the oldest frame with its last byte. -/
theorem Channel.Holds.frames_dataRead {k : Channel} {m : Nat} (h : k.Holds m) :
    k.dataRead.frames = if k.unread = 1 then k.frames.tail else k.frames := by
  rcases dataRead_cases k with ⟨h0, e⟩ | ⟨h2, -, -, e⟩ | ⟨h1, hready, e⟩ <;> rw [e]
  · rw [if_neg (by omega)]
  · rw [if_neg (by omega)]; rfl
  · rw [if_pos h1, ← h.frames_release (by omega)]
    exact frames_of_ring fun _ => rfl

/-- R160, R162: a delivered frame is added last when fewer than four wait. -/
theorem Channel.Holds.frames_delivered {k : Channel} {m : Nat} (h : k.Holds m) {x : Slot} (hx : x.cd ≠ -1) :
    (k.delivered x).frames = if k.frames.length < 4 then k.frames ++ [x.frame] else k.frames := by
  rw [h.frames_length]
  rcases h.1.lt_or_eq with hlt | rfl
  · rw [if_pos hlt, delivered_eq h hlt, h.frames_fill hlt hx]
  · rw [if_neg (lt_irrefl 4), delivered_full h]

/-- R45 (1): every other operation leaves the slots and the cursor. -/
theorem after_ring {i : Instr} {d : Chan} (htick : i ≠ .tick) (hread : ¬ (i = .rr8Ctl d ∨ ∃ p, i = .rr8Data d p))
    (hframe : ∀ bytes n delay, i ≠ .rxFrame d bytes n delay) (k : Channel) :
    (k.after d i).slots = k.slots ∧ (k.after d i).rxCur = k.rxCur := by
  cases i with
  | tick => exact absurd rfl htick
  | rr8Ctl c | rr8Data c p =>
    have hc : d ≠ c := by rintro rfl; simp at hread
    rw [Channel.after, if_neg hc]; exact ⟨rfl, rfl⟩
  | rxFrame c bytes n delay =>
    have hc : d ≠ c := by rintro rfl; exact hframe bytes n delay rfl
    rw [Channel.after, if_neg hc]; exact ⟨rfl, rfl⟩
  | wr0 c v => simp only [Channel.after]; split <;> simp [commanded_facts]
  | wr1 c v | wr3 c v | wr6 c v | wr8Ctl c v | wr8Data c p v | wr15 c v | setDcd c a =>
    simp only [Channel.after]; split <;> exact ⟨rfl, rfl⟩
  | _ => exact ⟨rfl, rfl⟩

/-- Settles O41: a delivered frame, a tick, a data read, and the operations that leave the ring. -/
theorem receiveQueueIsFirstInFirstOut : Obligations.ReceiveQueueIsFirstInFirstOut := by
  unfold Obligations.ReceiveQueueIsFirstInFirstOut
  intro i s t c hs h k q q' takes
  obtain ⟨m, hm⟩ : ∃ m, k.Holds m := (hs.ch c).holds
  have hq' : q' = (k.after c i).frames := by simp only [q', exec_ch h]; rfl
  rw [hq', show q = k.frames from rfl]
  constructor
  · rintro bytes n d rfl
    obtain ⟨hd, -⟩ := deliveredSlot_filled (frameDuty_of_next h)
    rw [Channel.after, if_pos rfl, hm.frames_delivered (x := deliveredSlot bytes n d) (by omega)]
    rfl
  · intro hframe
    by_cases htick : i = .tick
    · have htakes : takes ↔ k.act.cd = 1 ∧ k.frameMatches = false := by simp [takes, htick]
      rw [htakes, htick, Channel.after, hm.frames_ticked]
      exact ⟨fun hp => if_pos hp, fun hn => if_neg hn⟩
    · by_cases hread : i = .rr8Ctl c ∨ ∃ p, i = .rr8Data c p
      · have htakes : takes ↔ k.unread = 1 := by simp only [takes, htick, hread]; simp
        rw [htakes, after_dataRead hread, if_pos rfl, hm.frames_dataRead]
        exact ⟨fun hp => if_pos hp, fun hn => if_neg hn⟩
      · have hnone : ¬ takes := by simp only [takes, htick, hread]; simp
        obtain ⟨hslots, hcur⟩ := after_ring htick hread hframe k
        exact ⟨fun ht => absurd ht hnone, fun _ => frames_of_ring (ring_congr hslots hcur)⟩

end Sys2Proof.Machine
end

section
/-! R160 to R162: the delivery of a frame, as an exact next state. -/

namespace Sys2Proof.Machine

theorem enqueueFrame_stored {c : Chan} {s : State} {i : Fin Config.noRxbuf} (h : (s.ch c).firstFree = some i)
    (bytes : List Byte) (n : Nat) (d : Int) : enqueueFrame c bytes n d s =
      s.setCh c { s.ch c with slots := (s.ch c).slots.set i (deliveredSlot bytes n d) } := by
  simp only [enqueueFrame, h]; rfl

theorem enqueueFrame_dropped {c : Chan} {s : State} (h : (s.ch c).firstFree = none) (bytes : List Byte) (n : Nat)
    (d : Int) : enqueueFrame c bytes n d s = s.emit (.rxDropped c) := by
  simp only [enqueueFrame, h]

/-- Settles O43: the duties hold, and the scan stops at the first free place. -/
theorem deliveredFrameTakesTheFirstFreeSlot : Obligations.DeliveredFrameTakesTheFirstFreeSlot := by
  unfold Obligations.DeliveredFrameTakesTheFirstFreeSlot
  intro c bytes n d j s hlen hpos hcap hd hj k hfree hocc
  rw [exec_rxFrame ((frameDuty_iff bytes n d).2 ⟨hlen, hpos, hcap, hd⟩),
    enqueueFrame_stored (firstFree_some hj hfree hocc)]
  rfl

/-- Settles O44: the duties hold, and the scan finds no free place. -/
theorem frameToFullQueueIsDropped : Obligations.FrameToFullQueueIsDropped := by
  unfold Obligations.FrameToFullQueueIsDropped
  intro c bytes n d s hlen hpos hcap hd hocc
  rw [exec_rxFrame ((frameDuty_iff bytes n d).2 ⟨hlen, hpos, hcap, hd⟩), enqueueFrame_dropped (firstFree_none.2 hocc)]
  rfl

end Sys2Proof.Machine
end

section
/-! R100 to R117: the register writes, each as an exact next state. -/

namespace Sys2Proof.Machine

/-! ### The writes that only store (R102 to R109, R111 to R116) -/

/-- R100, R102, R103, R108, R111: a stored register takes the byte, and the pointer is consumed. -/
theorem exec_wr1 (c : Chan) (v : Byte) (s : State) :
    exec (.wr1 c v) s = .next (State.setCh { s with ptr := 0 } c { s.ch c with wr1 := v }) := rfl
theorem exec_wr2 (c : Chan) (v : Byte) (s : State) : exec (.wr2 c v) s = .next { s with ptr := 0, wr2 := v } := rfl
theorem exec_wr6 (c : Chan) (v : Byte) (s : State) :
    exec (.wr6 c v) s = .next (State.setCh { s with ptr := 0 } c { s.ch c with sdlcAddr := v }) := rfl
theorem exec_wr9 (c : Chan) (v : Byte) (s : State) : exec (.wr9 c v) s = .next { s with ptr := 0, wr9 := v } := rfl

/-- R105: an unlisted write consumes the pointer and loses its byte. -/
theorem exec_unlistedWrite {i : Instr} (h : isUnlistedWrite i = true) (s : State) :
    exec i s = .next { s with ptr := 0 } := by
  cases i with
  | wr4 | wr5 | wr7 | wr10 | wr11 | wr12 | wr13 | wr14 => rfl
  | _ => cases h

/-- R132, R134, R140: RR1 as a status read, and the default reads of RR2 on A and RR6. -/
theorem exec_rr1 (c : Chan) (s : State) : exec (.rr1 c) s = readStatus (rr1Value (s.ch c)) s := rfl
theorem exec_rr2A (s : State) : exec .rr2A s = readStatus 0xFF s := rfl
theorem exec_rr6 (c : Chan) (s : State) : exec (.rr6 c) s = readStatus 0xFF s := rfl

/-- R132: RR1 does not read WR1. -/
theorem rr1Value_wr1 (k : Channel) (v : Byte) : rr1Value { k with wr1 := v } = rr1Value k := rfl

/-- Settles O14: the three stores, and the reads of the same indices, none of which sees the byte. -/
theorem storedRegisterWritesStoreAndNothingElse : Obligations.StoredRegisterWritesStoreAndNothingElse := by
  unfold Obligations.StoredRegisterWritesStoreAndNothingElse
  intro c v s
  refine ⟨exec_wr1 c v s, exec_wr2 c v s, exec_wr6 c v s, fun t h => ?_, fun t _ => ⟨_, exec_rr2A t, rfl⟩,
    fun t _ => ⟨_, exec_rr6 c t, rfl⟩⟩
  rw [exec_wr1] at h
  cases h
  refine ⟨_, _, exec_rr1 c _, exec_rr1 c s, ?_⟩
  rw [returnByte_returned, returnByte_returned, ch_setCh_same, rr1Value_wr1]

/-- Settles O15: WR9 is a store. -/
theorem interruptControlWriteOnlyStores : Obligations.InterruptControlWriteOnlyStores := by
  unfold Obligations.InterruptControlWriteOnlyStores
  exact exec_wr9

/-- Settles O17: the eight unlisted writes. -/
theorem unlistedWritesOnlyConsumeThePointer : Obligations.UnlistedWritesOnlyConsumeThePointer := by
  unfold Obligations.UnlistedWritesOnlyConsumeThePointer
  intro c v s
  have h := fun i (hi : isUnlistedWrite i = true) => exec_unlistedWrite hi s
  exact ⟨h (.wr4 c v) rfl, h (.wr5 c v) rfl, h (.wr7 c v) rfl, h (.wr10 c v) rfl, h (.wr11 c v) rfl,
    h (.wr12 c v) rfl, h (.wr13 c v) rfl, h (.wr14 c v) rfl⟩

/-! ### WR3 and WR15 -/

/-- Settles O16: bit 4 decides between setting hunting and only consuming the pointer. -/
theorem receiveControlWriteOnlySetsHunting : Obligations.ReceiveControlWriteOnlySetsHunting := by
  unfold Obligations.ReceiveControlWriteOnlySetsHunting
  intro c v s
  have h : exec (.wr3 c v) s =
      .next (if wr3Hunt v = true then s.consumePtr.setCh c { s.ch c with hunting := true } else s.consumePtr) := rfl
  rw [h]
  constructor
  · intro hset; rw [if_pos ((wr3Hunt_iff v).2 hset)]; rfl
  · intro hclear; rw [if_neg (by rw [wr3Hunt_iff]; omega)]; rfl

/-- R234: the events of a raise, with the gate as bit 0 of WR1. -/
theorem gateEvents_eq (wr1 : Byte) : gateEvents wr1 = if wr1.getLsbD 0 = true then [.assertInterrupt] else [] := rfl

/-- Two nested conditions on the events of a raise are one. -/
theorem ite_gateEvents {p : Prop} [Decidable p] (wr1 : Byte) :
    (if p then gateEvents wr1 else []) = if p ∧ wr1.getLsbD 0 = true then [.assertInterrupt] else [] := by
  rw [gateEvents_eq, ite_and]

theorem ite_gateEvents_comm {p : Prop} [Decidable p] (wr1 : Byte) :
    (if p then gateEvents wr1 else []) = if wr1.getLsbD 0 = true ∧ p then [.assertInterrupt] else [] := by
  rw [ite_gateEvents]
  simp only [and_comm]

/-- Settles O18: the store, then `IntRaise` on the channel's WR1, which the store leaves. -/
theorem externalEnableWriteStoresThenRaises : Obligations.ExternalEnableWriteStoresThenRaises := by
  unfold Obligations.ExternalEnableWriteStoresThenRaises
  intro c v s
  have h : exec (.wr15 c v) s = .next (intRaise c (s.consumePtr.setCh c { s.ch c with wr15 := v })) := rfl
  rw [h, intRaise_eq, ite_gateEvents_comm, ch_setCh_same]
  cases c <;> rfl

/-! ### WR8 -/

/-- R190: an append with room replaces its channel. -/
theorem txAppend_room {c : Chan} {s : State} (h : (s.ch c).txBuf.length ≠ Config.txBufBytes) (v : Byte) :
    txAppend c v s = .next (s.setCh c ((s.ch c).txPush Config.txIdleBase v)) := if_neg h

/-- Settles O19: the append with room; the control path has consumed the pointer. -/
theorem dataWriteAppendsAndExtends : Obligations.DataWriteAppendsAndExtends := by
  unfold Obligations.DataWriteAppendsAndExtends
  intro c p v s hroom k k'
  rw [exec_wr8Data, exec_wr8Ctl, txAppend_room hroom, txAppend_room (s := s.consumePtr) (by rwa [ch_consumePtr]),
    ch_consumePtr]
  exact ⟨rfl, rfl⟩

/-- Settles O20: the append to a full buffer, through either path. -/
theorem dataWriteToFullBufferIsRefused : Obligations.DataWriteToFullBufferIsRefused := by
  unfold Obligations.DataWriteToFullBufferIsRefused
  intro c p v s hfull
  rw [exec_wr8Data, exec_wr8Ctl]
  exact ⟨txAppend_refused.2 ⟨rfl, hfull⟩, txAppend_refused.2 ⟨rfl, by rwa [ch_consumePtr]⟩⟩

/-! ### WR0 -/

/-- R191: the events of a flush. -/
theorem flushEvents_eq (c : Chan) (k : Channel) :
    flushEvents c k = if k.txBuf ≠ [] ∨ Config.flushEmpty = true then [.sendFrame k.txBuf c] else [] := by
  simp [flushEvents, Channel.flushSends]

/-- R101: the channel after a WR0 byte, its fields as numbers. -/
theorem commanded_eq (k : Channel) (v : Byte) : k.commanded v = { k with
    txBuf := if v.toNat / 8 % 8 = 3 then [] else k.txBuf
    hunting := if v.toNat / 8 % 8 = 3 then true else k.hunting
    txCd := if v.toNat / 64 = 3 then 1 else if v.toNat / 8 % 8 = 3 then -1 else k.txCd } := by
  obtain ⟨-, -, habort, hlatch⟩ := wr0_fields v
  simp only [Channel.commanded, habort, hlatch]
  split_ifs <;> rfl

/-- R101: the pending vector and its shadow after a WR0 byte. -/
theorem commanded_pending (s : State) (v : Byte) :
    (s.commanded v).pending = (if v.toNat / 8 % 8 = 2 then 0 else s.pending) ∧
    (s.commanded v).pendingShadow = (if v.toNat / 8 % 8 = 2 then 0 else s.pendingShadow) := by
  obtain ⟨-, hclear, -⟩ := wr0_fields v
  simp only [State.commanded, hclear, and_self]

/-- Settles O13: WR0 as one effect, field by field. -/
theorem commandWriteRunsItsFields : Obligations.CommandWriteRunsItsFields := by
  unfold Obligations.CommandWriteRunsItsFields
  intro c v s reg cmd crc k
  obtain ⟨hptr, -, habort, -⟩ := wr0_fields v
  obtain ⟨hpending, hshadow⟩ := commanded_pending s v
  refine ⟨_, execWr0_eq c v s, ?_, ?_, ?_, ?_, ?_, ?_, ?_, ?_, ?_, ?_, ?_⟩
  · rw [effect_ptr]; exact hptr
  · rw [effect_pending, BitVec.or_zero]; exact hpending
  · rw [effect_pendingShadow]; exact hshadow
  · rw [ch_effect_same]; exact commanded_eq k v
  · rw [ch_effect_other, ch_commanded]
  · rw [effect_trace]
    simp only [commandEvents, habort, flushEvents_eq, ite_and]
    rfl
  · exact effect_wr2 _ _ _ _ _
  · exact effect_wr9 _ _ _ _ _
  · exact effect_calls _ _ _ _ _
  · exact effect_returned _ _ _ _ _
  · exact effect_ticks _ _ _ _ _

end Sys2Proof.Machine
end

section
/-! R130 to R149: the register reads without effect, each as an exact next state. -/

namespace Sys2Proof.Machine

/-! ### RR0 and RR1 -/

/-- R40: the unread bytes, from the active slot. -/
theorem unread_eq (k : Channel) : k.unread = if k.act.cd = 0 then k.act.len - k.rdPtr else 0 := by
  simp [Channel.unread, Channel.activeReady]

/-- Settles O21: RR0 is a status read, and `rr0Value_bits` gives its byte bit by bit. -/
theorem statusReadHasItsBits : Obligations.StatusReadHasItsBits := by
  unfold Obligations.StatusReadHasItsBits
  intro c s k ready u
  have hu : k.unread = u := unread_eq k
  obtain ⟨h0, h1, h2, h3, h4, h5, h6, h7⟩ := rr0Value_bits k
  rw [hu] at h0 h7
  refine ⟨rr0Value k, exec_rr0 c s, ?_, h1, h2, h3, h4, h5, ?_, fun hready => ?_, fun hready => ?_⟩
  · rw [h0, decide_eq_true_iff]
  · rw [h6, decide_eq_true_iff]
  · rw [h7, if_pos (show k.activeReady = true from beq_iff_eq.2 hready), decide_eq_true_iff]
  · rw [h7, if_neg (show ¬ k.activeReady = true from mt beq_iff_eq.1 hready)]

/-- Settles O22: RR1 is a status read of the fixed byte, with bit 7 for one unread byte. -/
theorem specialConditionReadMarksTheLastByte : Obligations.SpecialConditionReadMarksTheLastByte := by
  unfold Obligations.SpecialConditionReadMarksTheLastByte
  intro c s
  rw [exec_rr1, readStatus_eq, rr1Value]
  exact ⟨fun h => by rw [if_pos h], fun h => by rw [if_neg h]⟩

/-! ### The default reads and the read-backs -/

/-- R137, R134 (D25): the reads that return the default byte. -/
def isDefaultRead : Instr → Bool
  | .rr2A | .rr4 _ | .rr5 _ | .rr6 _ | .rr7 _ | .rr9 _ | .rr11 _ | .rr12 _ | .rr13 _ | .rr14 _ => true
  | _ => false

/-- R137: a default read is the status read of 0xFF. -/
theorem exec_defaultRead {i : Instr} (h : isDefaultRead i = true) (s : State) :
    exec i s = .next { s with ptr := 0, returned := some 0xFF } := by
  cases i with
  | rr2A | rr4 | rr5 | rr6 | rr7 | rr9 | rr11 | rr12 | rr13 | rr14 => rfl
  | _ => cases h

/-- R137: the indices of the default reads of both channels. -/
theorem readMap_default (c : Chan) :
    ∀ n ∈ [4#4, 5#4, 6#4, 7#4, 9#4, 11#4, 12#4, 13#4, 14#4], isDefaultRead (readMap c n) = true := by
  cases c <;> decide

/-- Settles O23: each is a default read. -/
theorem unlistedReadsReturnTheDefault : Obligations.UnlistedReadsReturnTheDefault := by
  unfold Obligations.UnlistedReadsReturnTheDefault
  intro c s
  have h := fun i (hi : isDefaultRead i = true) => exec_defaultRead hi s
  exact ⟨h (.rr4 c) rfl, h (.rr5 c) rfl, h (.rr6 c) rfl, h (.rr7 c) rfl, h (.rr9 c) rfl, h (.rr11 c) rfl,
    h (.rr12 c) rfl, h (.rr13 c) rfl, h (.rr14 c) rfl, h .rr2A rfl, fun n hn => h _ (readMap_default c n hn),
    h (readMap .A 2) rfl⟩

/-- R149, R135: RR15 and RR3 on channel A are status reads of their register. -/
theorem exec_rr15 (c : Chan) (s : State) : exec (.rr15 c) s = readStatus (s.ch c).wr15 s := rfl
theorem exec_rr3A (s : State) : exec .rr3A s = readStatus (s.pending.setWidth 8) s := rfl

/-- Settles O24: the pending vector keeps its value in the wider byte. -/
theorem readBackReadsReturnTheirRegister : Obligations.ReadBackReadsReturnTheirRegister := by
  unfold Obligations.ReadBackReadsReturnTheirRegister
  intro c s
  exact ⟨exec_rr15 c s, _, BitVec.toNat_setWidth_of_le (by decide), exec_rr3A s⟩

end Sys2Proof.Machine
end

section
/-! R142: the data read through both paths. The control path runs the read on the state with the pointer consumed, and
no part of the read sees the pointer. -/

namespace Sys2Proof.Machine

theorem exec_rr8Data (c : Chan) (p : BitVec 4) (s : State) : exec (.rr8Data c p) s = .next (dataRead c s) := rfl
theorem exec_rr8Ctl (c : Chan) (s : State) : exec (.rr8Ctl c) s = .next (dataRead c s.consumePtr) := rfl

/-- R72: the data read neither reads nor writes the pointer. -/
theorem dataRead_consumePtr (c : Chan) (s : State) : dataRead c s.consumePtr = (dataRead c s).consumePtr := by
  have hch : s.consumePtr.ch c = s.ch c := ch_consumePtr s c
  by_cases h0 : (s.ch c).unread = 0
  · rw [dataRead_empty c s h0, dataRead_empty c _ (hch ▸ h0)]; rfl
  · rw [dataRead_pop c s h0, dataRead_pop c _ (hch ▸ h0), hch]; cases c <;> rfl

/-- R142: both paths, from what the read gives. -/
theorem exec_rr8_of {c : Chan} {s t : State} (h : dataRead c s = t) (p : BitVec 4) :
    exec (.rr8Data c p) s = .next t ∧ exec (.rr8Ctl c) s = .next { t with ptr := 0 } := by
  rw [exec_rr8Data, exec_rr8Ctl, dataRead_consumePtr, h]
  exact ⟨rfl, rfl⟩

/-- Settles O25: the read without a byte. -/
theorem dataReadWithoutByteReturnsZero : Obligations.DataReadWithoutByteReturnsZero := by
  unfold Obligations.DataReadWithoutByteReturnsZero
  exact fun c p s h0 => exec_rr8_of (dataRead_empty c s h0) p

/-- R142: a pop as one update of the state, with the byte the model's list gives. -/
theorem dataRead_pop_eq {c : Chan} {s : State} {b : Byte} (h : (s.ch c).unread ≠ 0)
    (hb : (s.ch c).act.data[(s.ch c).rdPtr]? = some b) : dataRead c s =
      State.setCh { s with
        pending := s.pending ||| popBits c (s.ch c)
        trace := s.trace ++ popEvents (s.ch c)
        returned := some b } c (s.ch c).popped := by
  have hnext : (s.ch c).nextByte = b := by rw [Channel.nextByte, List.getD_eq_getElem?_getD, hb]; rfl
  rw [dataRead_pop c s h, hnext]
  cases c <;> rfl

/-- Settles O26: the pop of an inner byte. -/
theorem dataReadPopsAnInnerByte : Obligations.DataReadPopsAnInnerByte := by
  unfold Obligations.DataReadPopsAnInnerByte
  intro c p b s k hu hb all s'
  have h0 : k.unread ≠ 0 := by omega
  have hinner := (pop_inner_iff h0).2 hu
  refine exec_rr8_of ?_ p
  rw [dataRead_pop_eq h0 hb]
  simp only [popBits, popEvents, Channel.popped, if_pos hinner, allChars_iff, ite_gateEvents, s', k, all]

/-- R32: the enables of WR15, each a bit. -/
theorem breakEnabled_iff (v : Byte) : breakEnabled v = true ↔ v.getLsbD 7 = true := Iff.rfl
theorem syncEnabled_iff (v : Byte) : syncEnabled v = true ↔ v.getLsbD 4 = true := Iff.rfl
theorem dcdEnabled_iff (v : Byte) : dcdEnabled v = true ↔ v.getLsbD 3 = true := Iff.rfl

/-- Settles O27: the pop of the last byte releases the slot. -/
theorem dataReadPopsTheLastByte : Obligations.DataReadPopsTheLastByte := by
  unfold Obligations.DataReadPopsTheLastByte
  intro c p b s k hu hb brk s'
  have h0 : k.unread ≠ 0 := by omega
  have hlast : ¬ k.rdPtr + 1 < k.act.len := by rw [pop_inner_iff h0]; omega
  refine exec_rr8_of ?_ p
  rw [dataRead_pop_eq h0 hb]
  simp only [popBits, popEvents, Channel.popped, if_neg hlast, breakEnabled_iff, ite_gateEvents, s', k, brk,
    Channel.releaseActive, ringIdx_one]
  rfl

end Sys2Proof.Machine
end

section
/-! R133, R238 to R242, R246: the acknowledge, and the drain of the ranked causes. -/

namespace Sys2Proof.Machine

/-- R133, R241: the vector read on channel B. -/
theorem exec_rr2B (s : State) : exec .rr2B s = .next (acknowledge false s.consumePtr) := rfl

/-- Settles O28: the cleared bit, the code and the vector as the spec writes them; the events are `acknowledge_eq`'s. -/
theorem acknowledgeTakesTheHighestCause : Obligations.AcknowledgeTakesTheHighestCause := by
  unfold Obligations.AcknowledgeTakesTheHighestCause
  intro s p code p' vec es
  have hclear : ackClear false s.pending = p' := ackClear_eq s.pending
  have hcode : code < 8 := by simp only [code]; split_ifs <;> decide
  have hvec : vectorBuild s.wr2 s.wr9 (causeCode (highestPending s.pending)) = vec := by
    rw [code_eq]; exact vectorBuild_eq s.wr2 s.wr9 code hcode
  rw [exec_rr2B, acknowledge_eq]
  simp only [consumePtr_pending, consumePtr_wr2, consumePtr_wr9, consumePtr_trace, hclear, hvec, ite_gateEvents]
  rfl

/-- R241: what a vector read on channel B leaves in the pending vector and returns. -/
theorem exec_rr2B_facts {s t : State} (h : exec .rr2B s = .next t) : t.pending = ackClear false s.pending ∧
    t.wr9 = s.wr9 ∧ t.returned = some (vectorBuild s.wr2 s.wr9 (causeCode (highestPending s.pending))) := by
  rw [exec_rr2B, acknowledge_eq] at h
  cases h
  exact ⟨rfl, rfl, rfl⟩

/-- R246, R238: four clears leave no ranked cause, a fifth changes nothing, and "none" is what is left to report. -/
theorem ackClear_drains : ∀ p : BitVec Config.pendWidth,
    let q := ackClear false (ackClear false (ackClear false (ackClear false p)))
    q &&& 0b101101 = 0 ∧ ackClear false q = q ∧ highestPending q = none := by decide

/-- R239, R240: the vector of "none" has 0b011 in the three bits of its offset. -/
theorem vectorBuild_none (w2 w9 : Byte) :
    (vectorBuild w2 w9 (causeCode none)).toNat / (if w9.getLsbD 4 then 16 else 2) % 8 = 3 := by
  have h : ∀ w : Byte, ((w &&& 0x8F) ||| BitVec.ofNat 8 (16 * 3)).toNat / 16 % 8 = 3 ∧
      ((w &&& 0xF1) ||| BitVec.ofNat 8 (2 * 3)).toNat / 2 % 8 = 3 := by decide
  rw [show causeCode none = BitVec.ofNat 3 3 from rfl, vectorBuild_eq w2 w9 3 (by decide)]
  cases w9.getLsbD 4
  · exact (h w2).2
  · exact (h w2).1

/-- Settles O29: `ackClear_drains`, through the states of the five reads. -/
theorem repeatedAcknowledgeDrains : Obligations.RepeatedAcknowledgeDrains := by
  unfold Obligations.RepeatedAcknowledgeDrains
  intro s0 s1 s2 s3 s4 s5 h0 h1 h2 h3 h4
  obtain ⟨p1, w1, -⟩ := exec_rr2B_facts h0
  obtain ⟨p2, w2, -⟩ := exec_rr2B_facts h1
  obtain ⟨p3, w3, -⟩ := exec_rr2B_facts h2
  obtain ⟨p4, w4, -⟩ := exec_rr2B_facts h3
  obtain ⟨p5, -, hret⟩ := exec_rr2B_facts h4
  obtain ⟨hranked, hsame, hnone⟩ := ackClear_drains s0.pending
  rw [← p1, ← p2, ← p3, ← p4] at hranked hsame hnone
  refine ⟨hranked, p5.trans hsame, _, hret, ?_⟩
  rw [hnone, ← w1, ← w2, ← w3, ← w4]
  exact vectorBuild_none _ _

end Sys2Proof.Machine
end

section
/-! R270: the state after initialization and the first reads. -/

namespace Sys2Proof.Machine

theorem ch_reset (c : Chan) : State.reset.ch c = Channel.reset := by cases c <;> rfl

/-- R270: every slot is free and empty after initialization. -/
theorem reset_slots (i : Fin Config.noRxbuf) : Channel.reset.slots[i] = Slot.empty := by
  simp [Channel.reset]

/-- Settles O9: the fields of the two channels, which are alike, then those of the chip. -/
theorem resetIsTheInitialState : Obligations.ResetIsTheInitialState := by
  unfold Obligations.ResetIsTheInitialState
  refine ⟨fun c => ?_, rfl, rfl, rfl, rfl, rfl, rfl, rfl, rfl⟩
  rw [ch_reset]
  have hslots : ∀ i : Fin 4, Channel.reset.slots[i].cd = -1 ∧ Channel.reset.slots[i].len = 0 ∧
      Channel.reset.slots[i].data = [] := fun i => by rw [reset_slots]; exact ⟨rfl, rfl, rfl⟩
  exact ⟨rfl, rfl, hslots, rfl, rfl, rfl, rfl, rfl, rfl, rfl, rfl, rfl, rfl⟩

/-- R131, R270: RR0 of a channel after initialization. -/
theorem rr0Value_reset : rr0Value Channel.reset = 0x4C ||| (if Config.rr0AbortWhenEmpty then 0x80 else 0x00) := by
  unfold rr0Value
  generalize Config.rr0AbortWhenEmpty = b
  cases b <;> decide

/-- Settles O10: each read of the initial state by the lemma of that read. -/
theorem initialReadsHaveTheirValues : Obligations.InitialReadsHaveTheirValues := by
  unfold Obligations.InitialReadsHaveTheirValues
  intro c
  refine ⟨⟨_, exec_rr0 c _, ?_⟩, ⟨_, exec_rr1 c _, ?_⟩, ⟨_, exec_rr3A _, rfl⟩, ⟨_, exec_rr15 c _, ?_⟩,
    ⟨_, exec_rr2B _, ?_⟩⟩
  · rw [returnByte_returned, ch_reset, rr0Value_reset]
  · rw [returnByte_returned, ch_reset, rr1Value, if_neg (by decide)]
  · rw [returnByte_returned, ch_reset]; rfl
  · rw [acknowledge_eq]; decide

end Sys2Proof.Machine
end

section
/-! R192, R163 to R168, R213: the tick steps of a channel and `setDCD`, as exact next states. Each is the step's effect
(`txTickStep_eq`, `rxTickStep_eq`, `eofTickStep_eq`) in one of its cases. -/

namespace Sys2Proof.Machine

/-- An effect is one update of the state. -/
theorem effect_eq (s : State) (c : Chan) (k : Channel) (b : BitVec Config.pendWidth) (es : List Event) :
    s.effect c k b es = State.setCh { s with pending := s.pending ||| b, trace := s.trace ++ es } c k := rfl

/-- An effect without bits and events replaces a channel. -/
theorem effect_channel (s : State) (c : Chan) (k : Channel) : s.effect c k 0 [] = s.setCh c k :=
  (setCh_eq_effect s c k).symm

/-- An effect without bits replaces a channel and appends events. -/
theorem effect_events (s : State) (c : Chan) (k : Channel) (es : List Event) :
    s.effect c k 0 es = State.setCh { s with trace := s.trace ++ es } c k := by
  simp [State.effect]

/-- Settles O31: `tickFirst` is the selection by P_TICK_ORDER. -/
theorem tickOrderFollowsTheParameter : Obligations.TickOrderFollowsTheParameter := by
  unfold Obligations.TickOrderFollowsTheParameter
  exact fun s => exec_tick s

/-- R192, R191: the transmit step by the countdown: idle, counting, at 1. -/
theorem txTicked_idle {k : Channel} (h : k.txCd ≤ 0) : k.txTicked = k := if_neg (by omega)
theorem txTicked_counting {k : Channel} (h : 1 < k.txCd) : k.txTicked = { k with txCd := k.txCd - 1 } := by
  rw [Channel.txTicked, if_pos (by omega), if_neg (by omega)]
theorem txTicked_last {k : Channel} (h : k.txCd = 1) :
    k.txTicked = { k with txBuf := [], txCd := -1, hunting := true } := by
  rw [Channel.txTicked, if_pos (by omega), if_pos h]; rfl

/-- Settles O33: the three cases of the transmit step. -/
theorem transmitTickCountsThenFlushes : Obligations.TransmitTickCountsThenFlushes := by
  unfold Obligations.TransmitTickCountsThenFlushes
  intro c s k
  simp only [txTickStep_eq, txTickEvents]
  refine ⟨fun h => ?_, fun h => ?_, fun h => ?_⟩
  · rw [txTicked_idle h, if_neg (show k.txCd ≠ 1 by omega), effect_channel, setCh_ch]
  · rw [txTicked_counting h, if_neg (show k.txCd ≠ 1 by omega), effect_channel]
  · rw [txTicked_last h, if_pos h, flushEvents_eq, effect_events]

/-! ### The receive step -/

/-- R163: a receive step that accepts no frame replaces its channel. -/
theorem rxTickStep_quiet {c : Chan} {s : State} (h : (s.ch c).accepts ≠ true) :
    rxTickStep c s = s.setCh c (s.ch c).rxTicked := by
  rw [rxTickStep_eq, rxTickBits, rxTickEvents, if_neg h, if_neg h, effect_channel]

theorem rxTicked_counting {k : Channel} (h : 1 < k.act.cd) : k.rxTicked = k.countedDown := by
  rw [Channel.rxTicked, if_pos (by omega), if_neg (by omega)]

theorem rxTicked_match {k : Channel} (h : k.act.cd = 1) (hm : k.frameMatches = true) :
    k.rxTicked = k.countedDown.accepted := by
  rw [Channel.rxTicked, if_pos (by omega), if_pos h, if_pos hm]

theorem rxTicked_mismatch {k : Channel} (h : k.act.cd = 1) (hm : k.frameMatches = false) :
    k.rxTicked = { k.releaseActive with hunting := true } := by
  rw [Channel.rxTicked, if_pos (by omega), if_pos h, if_neg (by simp [hm]), Channel.rejected, releaseActive_countedDown]

/-- Settles O34: an active slot that is free or ready, or counts above 1. -/
theorem receiveTickCountsTheActiveSlot : Obligations.ReceiveTickCountsTheActiveSlot := by
  unfold Obligations.ReceiveTickCountsTheActiveSlot
  intro c s k
  constructor <;> intro h
  all_goals rw [rxTickStep_quiet fun ha => by have := ((accepts_iff k).1 ha).1; omega]
  · rw [rxTicked_idle h, setCh_ch]
  · rw [rxTicked_counting h]; rfl

/-- R164: the check of a frame with a first byte. -/
theorem frameMatches_cons {k : Channel} {b : Byte} {rest : List Byte} (h : k.act.data = b :: rest) :
    k.frameMatches = true ↔ b = 0xFF ∨ b = k.sdlcAddr := by
  simp [Channel.frameMatches, h]

/-- R164: the channel after an accepted frame. -/
theorem accepted_countedDown {k : Channel} (h : k.act.cd = 1) : k.countedDown.accepted = { k with
    slots := k.slots.set k.rxCur { k.act with cd := 0 }
    rdPtr := 0
    hunting := false
    eofCd := 3 * k.act.len } := by
  have hact : k.countedDown.act.len = k.act.len := by rw [Channel.countedDown, act_setAct]
  rw [Channel.accepted, hact]
  simp only [Channel.countedDown, Channel.setAct, h]
  rfl

/-- Settles O35: the frame matches, and the step has the effect of an accepted frame. -/
theorem arrivingFrameThatMatchesIsAccepted : Obligations.ArrivingFrameThatMatchesIsAccepted := by
  unfold Obligations.ArrivingFrameThatMatchesIsAccepted
  intro c b rest s k hcd hdata hb sync rx ai
  have hm : k.frameMatches = true := (frameMatches_cons hdata).2 hb
  have ha : k.accepts = true := (accepts_iff k).2 ⟨hcd, hm⟩
  rw [rxTickStep_eq, rxTickBits, rxTickEvents, if_pos ha, if_pos ha, rxTicked_match hcd hm,
    accepted_countedDown hcd, effect_eq]
  simp only [acceptBits, acceptEvents, syncEnabled_iff, firstOrAll_iff, gateEvents_eq]
  rfl

/-- Settles O36: the frame mismatches; the slot that becomes active is another one, and not ready. -/
theorem arrivingFrameThatMismatchesIsDiscarded : Obligations.ArrivingFrameThatMismatchesIsDiscarded := by
  unfold Obligations.ArrivingFrameThatMismatchesIsDiscarded
  intro c b rest s k hcd hdata hff haddr
  have hm : k.frameMatches ≠ true := by rw [Ne, frameMatches_cons hdata]; tauto
  have hstep : rxTickStep c s = s.setCh c { k.releaseActive with hunting := true } := by
    rw [rxTickStep_quiet fun ha => hm ((accepts_iff k).1 ha).2, rxTicked_mismatch hcd (by simpa using hm)]
  rw [hstep]
  constructor
  · simp only [Channel.releaseActive, ringIdx_one, Channel.setAct]
  · intro hother
    have hne : k.rxCur + 1 ≠ k.rxCur := by generalize k.rxCur = i; revert i; decide
    have hact : k.releaseActive.act = k.slots[k.rxCur + 1] := by
      rw [releaseActive_act]; exact slot_congr _ (ringIdx_one _)
    rw [ch_setCh_same]
    exact unread_of (k := { k.releaseActive with hunting := true }) (hact ▸ hother _ hne)

/-! ### The end-of-frame step -/

/-- Settles O37: the effect of the end-of-frame step; its two raises have the same events. -/
theorem endOfFrameTickAssertsExternal : Obligations.EndOfFrameTickAssertsExternal := by
  unfold Obligations.EndOfFrameTickAssertsExternal
  intro c s k rx ai
  constructor
  · intro h0
    exact if_neg (show ¬ 0 < k.eofCd by omega)
  · intro hpos
    have hes : (if rx then ai else []) ++ ai = ai ++ (if rx then ai else []) := by split <;> simp
    rw [eofTickStep_eq, eofTickBits, eofTickEvents, Channel.eofTicked, if_pos hpos, if_pos hpos, if_pos hpos,
      effect_eq, BitVec.or_comm _ (extBit c)]
    simp only [specialCond_iff, gateEvents_eq]
    rw [← hes]

/-! ### `setDCD` -/

/-- Settles O42: the same level, and another one. -/
theorem setDcdRaisesOnChangeOnly : Obligations.SetDcdRaisesOnChangeOnly := by
  unfold Obligations.SetDcdRaisesOnChangeOnly
  intro c a s k ie
  have hexec : exec (.setDcd c a) s = .next (setDcdLine c a s) := rfl
  rw [hexec]
  constructor
  · intro hsame; rw [setDcdLine_same c a s hsame]
  · intro hnew
    rw [setDcdLine_eq c a s hnew, effect_eq]
    simp only [dcdEnabled_iff, ite_gateEvents]
    rfl

/-! ### The order of the channels -/

/-- R212: the state after both channels' ticks, but for the events. -/
def State.bothTicked (s : State) : State :=
  { s with
    chA := s.chA.ticked
    chB := s.chB.ticked
    pending := s.pending ||| (tickBits .A s.chA ||| tickBits .B s.chB) }

/-- Settles O32: each channel's tick reads and writes that channel alone; the pending bits are joined either way. -/
theorem channelOrderOnlyReordersEvents : Obligations.ChannelOrderOnlyReordersEvents := by
  unfold Obligations.ChannelOrderOnlyReordersEvents
  intro s
  have hev : ∀ c, ∀ e ∈ tickEvents c (s.ch c), e = .assertInterrupt ∨ ∃ bytes, e = .sendFrame bytes c :=
    fun c e he => (tickEvents_mem he).imp And.left id
  refine ⟨s.bothTicked, tickEvents .A s.chA, tickEvents .B s.chB, ?_, ?_, hev .A, hev .B⟩
  · simp [tickChan_eq, State.effect, State.setCh, State.bothTicked, State.ch, BitVec.or_assoc]
  · simp [tickChan_eq, State.effect, State.setCh, State.bothTicked, State.ch, BitVec.or_assoc,
      BitVec.or_comm (tickBits .B s.chB)]

end Sys2Proof.Machine
end

section
/-! Runs of ticks. A channel after `n` ticks is `Channel.ticked` iterated `n` times, whatever the other channel does, so
a law over ticks is an induction on that iteration. -/

namespace Sys2Proof.Machine

theorem exec_tick_iff {s t : State} : exec .tick s = .next t ↔ t = tickDevice s :=
  ⟨fun h => by cases h; rfl, fun h => h ▸ rfl⟩

/-- R210: `n` ticks tick each channel `n` times. -/
theorem AfterTicks.ch {n : Nat} {s t : State} (h : AfterTicks n s t) (c : Chan) :
    t.ch c = Channel.ticked^[n] (s.ch c) := by
  induction n generalizing t with
  | zero => rw [show t = s from h]; rfl
  | succ n ih =>
    obtain ⟨u, hu, ht⟩ := h
    rw [exec_tick_iff.1 ht, ch_tickDevice, ih hu, Function.iterate_succ_apply']

/-! ### A channel on which no frame is arriving -/

/-- R211: with no frame arriving, a tick runs the transmit and the end-of-frame step. -/
theorem ticked_idle {k : Channel} (h : k.act.cd ≤ 0) : k.ticked = k.txTicked.eofTicked := by
  rw [Channel.ticked, rxTicked_idle (by rwa [txTicked_act])]

/-- R163, R167: with no frame arriving, a tick leaves the active slot and the read cursor, and counts the end-of-frame
countdown. -/
theorem ticked_idle_facts {k : Channel} (h : k.act.cd ≤ 0) : k.ticked.act = k.act ∧ k.ticked.rdPtr = k.rdPtr ∧
    k.ticked.eofCd = k.eofCd - 1 ∧ (k.eofCd = 1 → k.ticked.eofPending = true) := by
  obtain ⟨-, -, -, -, -, -, -, hrd, heof, -⟩ := txTicked_facts k
  rw [ticked_idle h, eofTicked_act, txTicked_act, eofTicked_facts]
  refine ⟨rfl, hrd, congrArg (· - 1) heof, fun h1 => if_pos (heof.trans h1)⟩

/-- R163, R167: the same after any number of ticks. -/
theorem iterate_ticked_idle {k : Channel} (h : k.act.cd ≤ 0) (n : Nat) : (Channel.ticked^[n] k).act = k.act ∧
    (Channel.ticked^[n] k).rdPtr = k.rdPtr ∧ (Channel.ticked^[n] k).eofCd = k.eofCd - n := by
  induction n with
  | zero => exact ⟨rfl, rfl, rfl⟩
  | succ n ih =>
    obtain ⟨hact, hrd, heof⟩ := ih
    obtain ⟨hact', hrd', heof', -⟩ := ticked_idle_facts (k := Channel.ticked^[n] k) (hact ▸ h)
    rw [Function.iterate_succ_apply']
    exact ⟨hact'.trans hact, hrd'.trans hrd, by omega⟩

/-- R40: with no frame arriving, ticks leave the unread bytes. -/
theorem iterate_ticked_unread {k : Channel} (h : k.act.cd ≤ 0) (n : Nat) :
    (Channel.ticked^[n] k).unread = k.unread := by
  obtain ⟨hact, hrd, -⟩ := iterate_ticked_idle h n
  rw [unread_eq, unread_eq, hact, hrd]

/-- R167: an active end-of-frame countdown sets EXT. -/
theorem tickBits_ext_of_active {c : Chan} {k : Channel} (h : k.act.cd ≤ 0) (heof : 0 < k.eofCd) :
    tickBits c k &&& extBit c = extBit c := by
  obtain ⟨-, -, -, -, -, -, -, -, hkeep, -⟩ := txTicked_facts k
  rw [tickBits, rxTicked_idle (by rwa [txTicked_act]), eofTickBits, if_pos (by rwa [hkeep])]
  generalize rxTickBits c k.txTicked = x
  split <;> revert x <;> cases c <;> decide

/-- Joining bits keeps a mask that is set. -/
theorem or_mask_full {a b e : BitVec Config.pendWidth} (h : b &&& e = e) : (a ||| b) &&& e = e := by
  ext i hi
  have hbit := congrArg (fun v => v[i]) h
  simp only [BitVec.getElem_and, BitVec.getElem_or] at hbit ⊢
  revert hbit
  cases a[i] <;> cases b[i] <;> cases e[i] <;> decide

/-- R167: a tick with an active end-of-frame countdown leaves EXT of the channel pending. -/
theorem tickDevice_ext {c : Chan} {s : State} (h : (s.ch c).act.cd ≤ 0) (heof : 0 < (s.ch c).eofCd) :
    (tickDevice s).pending &&& extBit c = extBit c := by
  have hc := tickBits_ext_of_active (c := c) h heof
  rw [tickDevice_pending]
  cases c
  · rw [BitVec.or_assoc, BitVec.or_comm (tickBits .A _), ← BitVec.or_assoc]; exact or_mask_full hc
  · exact or_mask_full hc

/-- Settles O38: the countdown by iteration; EXT and `eofPending` by the last tick, which starts with the countdown
active. -/
theorem endOfFrameCountdownLastsItsTicks : Obligations.EndOfFrameCountdownLastsItsTicks := by
  unfold Obligations.EndOfFrameCountdownLastsItsTicks
  intro c n s t hidle hn h
  obtain ⟨-, -, hcount⟩ := iterate_ticked_idle hidle n
  refine ⟨by rw [h.ch c, hcount], ?_⟩
  cases n with
  | zero => exact ⟨fun h0 => absurd h0 (lt_irrefl 0), fun h0 => absurd h0 (lt_irrefl 0)⟩
  | succ m =>
    obtain ⟨u, hu, ht⟩ := h
    obtain ⟨hact, -, heof⟩ := iterate_ticked_idle hidle m
    rw [← hu.ch c] at hact heof
    have hidle' : (u.ch c).act.cd ≤ 0 := hact ▸ hidle
    obtain ⟨-, -, -, hfire⟩ := ticked_idle_facts hidle'
    rw [exec_tick_iff.1 ht, ch_tickDevice]
    exact ⟨fun _ => tickDevice_ext hidle' (by omega), fun _ hlast => hfire (by omega)⟩

end Sys2Proof.Machine
end

section
/-! R170: a frame delivered to an empty queue, tick by tick. -/

namespace Sys2Proof.Machine

/-- The frame `x` waits in the active slot with countdown `cd`, nothing of it read and no frame behind it, on a channel
with address `addr`. -/
structure Channel.Awaits (k : Channel) (x : Slot) (addr : Byte) (cd : Int) : Prop where
  act : k.act = { x with cd := cd }
  rdPtr : k.rdPtr = 0
  behind : (k.ringSlot 1).cd = -1
  addr : k.sdlcAddr = addr

/-- Is the frame addressed to `addr` or to all? -/
theorem Channel.Awaits.matches_iff {k : Channel} {x : Slot} {addr b : Byte} {rest : List Byte} {cd : Int}
    (h : k.Awaits x addr cd) (hx : x.data = b :: rest) : k.frameMatches = true ↔ b = 0xFF ∨ b = addr := by
  rw [frameMatches_cons (k := k) (by rw [h.act]; exact hx), h.addr]

/-- R211: what a tick does to the receive side of a channel is what its receive step does. -/
theorem ticked_rx (k : Channel) : k.ticked.act = k.txTicked.rxTicked.act ∧
    k.ticked.rdPtr = k.txTicked.rxTicked.rdPtr ∧ (∀ j, k.ticked.ringSlot j = k.txTicked.rxTicked.ringSlot j) := by
  refine ⟨eofTicked_act _, ?_, eofTicked_ring _⟩
  rw [Channel.ticked, eofTicked_facts]

theorem txTicked_frameMatches (k : Channel) : k.txTicked.frameMatches = k.frameMatches := by
  obtain ⟨-, -, -, -, -, -, -, -, -, -, hmatch⟩ := txTicked_facts k
  exact hmatch

/-- R192: the transmit step leaves a waiting frame alone. -/
theorem Channel.Awaits.txTicked {k : Channel} {x : Slot} {addr : Byte} {cd : Int} (h : k.Awaits x addr cd) :
    k.txTicked.Awaits x addr cd := by
  obtain ⟨-, -, -, -, haddr, -, -, hrd, -⟩ := txTicked_facts k
  exact ⟨(txTicked_act k).trans h.act, hrd.trans h.rdPtr, by rw [txTicked_ring]; exact h.behind, haddr.trans h.addr⟩

/-- R163: a frame one tick nearer. -/
theorem Channel.Awaits.countedDown {k : Channel} {x : Slot} {addr : Byte} {cd : Int} (h : k.Awaits x addr cd) :
    k.countedDown.Awaits x addr (cd - 1) := by
  refine ⟨?_, h.rdPtr, ?_, h.addr⟩
  · rw [Channel.countedDown, act_setAct, h.act]
  · rw [ringSlot_counted k 1 (by decide)]; exact h.behind

/-- R163: a tick before the frame arrives. -/
theorem Channel.Awaits.ticked {k : Channel} {x : Slot} {addr : Byte} {cd : Int} (h : k.Awaits x addr cd)
    (hcd : 1 < cd) : k.ticked.Awaits x addr (cd - 1) := by
  have hact : k.txTicked.act.cd = cd := congrArg Slot.cd h.txTicked.act
  have hrx := h.txTicked.countedDown
  rw [← rxTicked_counting (by omega)] at hrx
  obtain ⟨hact, hrd, hring⟩ := ticked_rx k
  obtain ⟨-, -, -, -, haddr, -⟩ := ticked_facts k
  exact ⟨hact.trans hrx.act, hrd.trans hrx.rdPtr, (hring 1) ▸ hrx.behind, haddr.trans h.addr⟩

/-- R163: the ticks before the frame arrives. -/
theorem Channel.Awaits.iterate {k : Channel} {x : Slot} {addr : Byte} {d n : Nat} (h : k.Awaits x addr d)
    (hn : n < d) : (Channel.ticked^[n] k).Awaits x addr (d - n) := by
  induction n with
  | zero => simpa using h
  | succ n ih =>
    rw [Function.iterate_succ_apply']
    have := (ih (by omega)).ticked (by omega)
    rwa [show (d : Int) - n - 1 = d - (n + 1 : Nat) by omega] at this

/-- R164: the tick in which a frame arrives that matches. -/
theorem Channel.Awaits.arrive_match {k : Channel} {x : Slot} {addr : Byte} (h : k.Awaits x addr 1)
    (hm : k.frameMatches = true) : k.ticked.act = { x with cd := 0 } ∧ k.ticked.rdPtr = 0 := by
  have hact : k.txTicked.act.cd = 1 := congrArg Slot.cd h.txTicked.act
  obtain ⟨hact', hrd, -⟩ := ticked_rx k
  rw [hact', hrd, rxTicked_match hact ((txTicked_frameMatches k).trans hm)]
  exact ⟨h.txTicked.countedDown.act, rfl⟩

/-- R165: the tick in which a frame arrives that mismatches leaves a free slot active. -/
theorem Channel.Awaits.arrive_mismatch {k : Channel} {x : Slot} {addr : Byte} (h : k.Awaits x addr 1)
    (hm : k.frameMatches = false) : k.ticked.act.cd = -1 := by
  have hact : k.txTicked.act.cd = 1 := congrArg Slot.cd h.txTicked.act
  rw [(ticked_rx k).1, rxTicked_mismatch hact ((txTicked_frameMatches k).trans hm)]
  exact (congrArg Slot.cd (releaseActive_act k.txTicked)).trans h.txTicked.behind

/-- R160: a frame delivered to an empty queue waits in the active slot. -/
theorem Channel.Inv.awaits_delivered {k : Channel} (h : k.Inv) (hfree : k.act.cd = -1) (x : Slot) :
    (k.delivered x).Awaits x k.sdlcAddr x.cd := by
  obtain ⟨m, hm⟩ := h.holds
  obtain rfl : m = 0 := by have := mt hm.act.2 (not_not_intro hfree); omega
  have hring := fun j hj => ringSlot_fill k 0 j x (by decide) hj
  rw [delivered_eq hm (by decide)]
  refine ⟨?_, ?_, ?_, rfl⟩
  · rw [act_eq, hring 0 (by decide), if_pos rfl]
  · exact h.rdPtr_zero (by omega)
  · rw [hring 1 (by decide), if_neg (by decide)]
    exact by_contra fun hocc => Nat.not_lt_zero 1 ((hm.2 1 (by decide)).1 hocc)

/-- R164, R165: from the tick of its arrival on, a frame that matches is ready and unread, and one that mismatches
leaves no readable byte. -/
theorem Channel.Awaits.arrived {k : Channel} {x : Slot} {addr b : Byte} {rest : List Byte} {d n : Nat}
    (h : k.Awaits x addr d) (hx : x.data = b :: rest) (hd : 1 ≤ d) (hn : d ≤ n) :
    ((b = 0xFF ∨ b = addr) →
      (Channel.ticked^[n] k).act = { x with cd := 0 } ∧ (Channel.ticked^[n] k).rdPtr = 0) ∧
    (¬ (b = 0xFF ∨ b = addr) → (Channel.ticked^[n] k).unread = 0) := by
  obtain ⟨e, rfl⟩ : ∃ e, d = e + 1 := ⟨d - 1, by omega⟩
  obtain ⟨m, rfl⟩ : ∃ m, n = m + (e + 1) := ⟨n - (e + 1), by omega⟩
  have harrive := h.iterate (Nat.lt_succ_self e)
  rw [show ((e + 1 : Nat) : Int) - e = 1 by omega] at harrive
  rw [Function.iterate_add_apply, Function.iterate_succ_apply', ← harrive.matches_iff hx]
  constructor
  · intro hm
    obtain ⟨hact, hrd⟩ := harrive.arrive_match hm
    obtain ⟨hact', hrd', -⟩ := iterate_ticked_idle (k := (Channel.ticked^[e] k).ticked) (by rw [hact]) m
    exact ⟨hact'.trans hact, hrd'.trans hrd⟩
  · intro hm
    have hfree := harrive.arrive_mismatch (Bool.eq_false_of_not_eq_true hm)
    rw [iterate_ticked_unread (by omega)]
    exact unread_of (by omega)

/-- R131, R142: a ready frame of which nothing is read shows in RR0 bit 0, and a data read returns its first byte. -/
theorem readable_of_ready {c : Chan} {t : State} {b : Byte} {rest : List Byte} (hready : (t.ch c).act.cd = 0)
    (hrd : (t.ch c).rdPtr = 0) (hlen : 0 < (t.ch c).act.len) (hdata : (t.ch c).act.data = b :: rest) :
    (∃ w r, exec (.rr0 c) t = .next w ∧ w.returned = some r ∧ r.getLsbD 0 = true) ∧
    (∃ w, exec (.rr8Data c t.ptr) t = .next w ∧ w.returned = some b) := by
  have hunread : 0 < (t.ch c).unread := by rw [unread_eq, if_pos hready, hrd]; exact hlen
  constructor
  · obtain ⟨w, hw, hr⟩ := rr0_returns c t
    obtain ⟨hbit, -⟩ := rr0Value_bits (t.ch c)
    exact ⟨w, _, hw, hr, hbit.trans (decide_eq_true hunread)⟩
  · have hbyte : (t.ch c).act.data[(t.ch c).rdPtr]? = some b := by rw [hdata, hrd]; rfl
    exact ⟨_, exec_rr8Data c t.ptr t, by rw [dataRead_pop_eq (by omega) hbyte, setCh_returned]⟩

/-- Settles O39: the frame waits in the active slot (`Awaits`) until it has arrived. -/
theorem frameIsReadableAfterItsDelay : Obligations.FrameIsReadableAfterItsDelay := by
  unfold Obligations.FrameIsReadableAfterItsDelay
  intro c b bs d n s u t hs hfree hu ht
  obtain ⟨-, -, -, hpos⟩ := (frameDuty_iff _ _ _).1 (frameDuty_of_next hu)
  have hdata : (deliveredSlot (b :: bs) (bs.length + 1) d).data = b :: frameData bs := rfl
  have hwait : (u.ch c).Awaits (deliveredSlot (b :: bs) (bs.length + 1) d) (s.ch c).sdlcAddr d := by
    rw [exec_ch hu, Channel.after, if_pos rfl]
    exact (hs.ch c).awaits_delivered hfree _
  have harrived := fun hn => hwait.arrived hdata (n := n) (by omega) hn
  refine ⟨fun hn => ?_, fun hn hmatch => ?_, fun hn hff haddr => ?_⟩
  · rw [ht.ch c]
    exact unread_of (by rw [(hwait.iterate hn).act]; change (d : Int) - n ≠ 0; omega)
  · obtain ⟨hact, hrd⟩ := (harrived hn).1 hmatch
    rw [← ht.ch c] at hact hrd
    refine readable_of_ready (rest := frameData bs) ?_ hrd ?_ ?_ <;> rw [hact]
    · simp [deliveredSlot]
    · exact hdata
  · rw [ht.ch c]
    exact (harrived hn).2 (by tauto)

end Sys2Proof.Machine
end

section
/-! R195: bytes written from idle, tick by tick. -/

namespace Sys2Proof.Machine

/-! ### The writes -/

/-- R110, R190: a completed data write, through either path, appends to its channel and emits nothing. -/
theorem dataWrite_facts {c : Chan} {p : BitVec 4} {v : Byte} {s t : State}
    (h : exec (.wr8Data c p v) s = .next t ∨ exec (.wr8Ctl c v) s = .next t) :
    t.ch c = (s.ch c).txPush Config.txIdleBase v ∧ t.pending = s.pending ∧ t.trace = s.trace := by
  rcases h with h | h
  · obtain ⟨-, rfl⟩ := txAppend_next h; simp
  · obtain ⟨-, rfl⟩ := txAppend_next h; simp

/-- R190: bytes written to a channel that counts extend the buffer and the countdown. -/
theorem AfterDataWrites.facts {c : Chan} {bs : List Byte} {s u : State} (h : AfterDataWrites c bs s u)
    (hcd : 0 ≤ (s.ch c).txCd) : (u.ch c).txCd = (s.ch c).txCd + 30 * bs.length ∧
      (u.ch c).txBuf = (s.ch c).txBuf ++ bs ∧ u.trace = s.trace := by
  induction bs generalizing s with
  | nil => rw [show u = s from h]; simp
  | cons v vs ih =>
    obtain ⟨w, hw, hrest⟩ := h
    obtain ⟨hch, -, htr⟩ := dataWrite_facts hw
    have hpush : (w.ch c).txCd = (s.ch c).txCd + 30 := by
      rw [hch, Channel.txPush, if_neg (by omega), Config.txByteTicks_eq]
    obtain ⟨hcd', hbuf, htr'⟩ := ih hrest (by omega)
    refine ⟨?_, ?_, htr'.trans htr⟩
    · rw [hcd', hpush, List.length_cons]; push_cast; ring
    · rw [hbuf, hch, Channel.txPush, List.append_assoc, List.singleton_append]

/-- R195: bytes written from idle: the first one starts the countdown at 30. -/
theorem AfterDataWrites.from_idle {c : Chan} {bs : List Byte} {s u : State} (h : AfterDataWrites c bs s u)
    (hbs : bs ≠ []) (hidle : (s.ch c).txCd = -1) (hempty : (s.ch c).txBuf = []) :
    (u.ch c).txCd = 30 * bs.length ∧ (u.ch c).txBuf = bs ∧ u.trace = s.trace := by
  cases bs with
  | nil => exact absurd rfl hbs
  | cons v vs =>
    obtain ⟨w, hw, hrest⟩ := h
    obtain ⟨hch, -, htr⟩ := dataWrite_facts hw
    have hpush : (w.ch c).txCd = 30 ∧ (w.ch c).txBuf = [v] := by
      rw [hch, Channel.txPush, hidle, hempty]; exact ⟨rfl, rfl⟩
    obtain ⟨hcd, hbuf, htr'⟩ := hrest.facts (by omega)
    refine ⟨?_, by rw [hbuf, hpush.2]; rfl, htr'.trans htr⟩
    rw [hcd, hpush.1, List.length_cons]; push_cast; ring

/-! ### The ticks -/

/-- R191: of a channel's events in a tick, the frames it hands over are those of its transmit step. -/
theorem tickEvents_sends (c : Chan) (k : Channel) :
    (tickEvents c k).filter (Event.isSendOf c) = txTickEvents c k := by
  have htx : (txTickEvents c k).filter (Event.isSendOf c) = txTickEvents c k :=
    List.filter_eq_self.2 fun e he => by obtain ⟨b, rfl⟩ := txTickEvents_mem he; exact beq_self_eq_true c
  have hrx : (rxTickEvents k.txTicked).filter (Event.isSendOf c) = [] :=
    List.filter_eq_nil_iff.2 fun e he => by rw [(rxTickEvents_mem he).1]; exact Bool.false_ne_true
  have heof : (eofTickEvents k.txTicked.rxTicked).filter (Event.isSendOf c) = [] :=
    List.filter_eq_nil_iff.2 fun e he => by rw [(eofTickEvents_mem he).1]; exact Bool.false_ne_true
  rw [tickEvents, List.filter_append, List.filter_append, htx, hrx, heof, List.append_nil, List.append_nil]

/-- R191: a channel hands over no frame of the other one. -/
theorem tickEvents_sends_other (c : Chan) (k : Channel) :
    (tickEvents c.other k).filter (Event.isSendOf c) = [] := by
  refine List.filter_eq_nil_iff.2 fun e he => ?_
  rcases tickEvents_mem he with ⟨rfl, -⟩ | ⟨b, rfl⟩
  · exact Bool.false_ne_true
  · simp [Event.isSendOf]

/-- R191, R210: the frames of a channel that a tick hands over are those of its transmit step. -/
theorem tickDevice_sends (c : Chan) (s : State) : ∃ es, (tickDevice s).trace = s.trace ++ es ∧
    es.filter (Event.isSendOf c) = txTickEvents c (s.ch c) := by
  refine ⟨_, tickDevice_trace s, ?_⟩
  rw [List.filter_append]
  rcases eq_or_eq_other c (tickFirst s.ticks) with h | h
  · rw [h, tickEvents_sends, tickEvents_sends_other, List.append_nil]
  · rw [h, other_other, tickEvents_sends_other, tickEvents_sends, List.nil_append]

/-- R192, R195: `n` ticks on a channel that counts from `T` with the bytes `bs` to send. -/
theorem AfterTicks.sends {c : Chan} {bs : List Byte} {n T : Nat} {u t : State} (hbs : bs ≠ [])
    (hcd : (u.ch c).txCd = T) (hbuf : (u.ch c).txBuf = bs) (h : AfterTicks n u t) : ∃ es, t.trace = u.trace ++ es ∧
      (n < T → es.filter (Event.isSendOf c) = [] ∧ (t.ch c).txBuf = bs ∧ (t.ch c).txCd = T - n) ∧
      (0 < T → n = T →
        es.filter (Event.isSendOf c) = [.sendFrame bs c] ∧ (t.ch c).txBuf = [] ∧ (t.ch c).txCd = -1) := by
  induction n generalizing t with
  | zero =>
    rw [show t = u from h]
    exact ⟨[], (List.append_nil _).symm, fun _ => ⟨rfl, hbuf, by simpa using hcd⟩, fun h0 h1 => by omega⟩
  | succ n ih =>
    obtain ⟨v, hv, ht⟩ := h
    obtain ⟨es, htr, hbefore, -⟩ := ih hv
    obtain ⟨fs, htr', hsends⟩ := tickDevice_sends c v
    obtain ⟨-, -, -, -, -, hcd', hbuf'⟩ := ticked_facts (v.ch c)
    rw [exec_tick_iff.1 ht, ch_tickDevice, hcd', hbuf']
    refine ⟨es ++ fs, by rw [htr', htr, List.append_assoc], fun hn => ?_, fun _ hn => ?_⟩
    · obtain ⟨hes, hb, hc⟩ := hbefore (by omega)
      rw [List.filter_append, hes, hsends, txTickEvents, if_neg (by omega), txTicked_counting (by omega)]
      exact ⟨rfl, hb, by rw [hc]; push_cast; ring⟩
    · obtain ⟨hes, hb, hc⟩ := hbefore (by omega)
      have h1 : (v.ch c).txCd = 1 := by omega
      rw [List.filter_append, hes, hsends, txTickEvents, if_pos h1, txTicked_last h1, flushEvents_eq, hb,
        if_pos (.inl hbs)]
      exact ⟨rfl, rfl, rfl⟩

/-- Settles O40: the writes from idle, then the ticks of the countdown they give. -/
theorem writtenBytesLeaveAsOneFrame : Obligations.WrittenBytesLeaveAsOneFrame := by
  unfold Obligations.WrittenBytesLeaveAsOneFrame
  intro c bs n s u t hbs hidle hempty hu ht
  obtain ⟨hcd, hbuf, htr⟩ := hu.from_idle hbs hidle hempty
  have hpos : 0 < 30 * bs.length := by have := List.length_pos_iff.2 hbs; omega
  obtain ⟨es, htr', hbefore, hlast⟩ :=
    AfterTicks.sends (T := 30 * bs.length) hbs (by rw [hcd]; push_cast; ring) hbuf ht
  refine ⟨hcd, es, by rw [htr', htr], fun hn => ?_, hlast hpos⟩
  obtain ⟨hnone, hkeep, -⟩ := hbefore hn
  exact ⟨hnone, hkeep⟩

end Sys2Proof.Machine
end

section
/-! R71, R82, R210: the pointer after each operation, against the class of its word. -/

namespace Sys2Proof.Machine

/-- R74: the host operations. -/
def isHostOp : Instr → Bool
  | .tick | .setDcd _ _ | .rxFrame _ _ _ _ => true
  | _ => false

/-- R70: the data accesses. -/
def isDataAccess : Instr → Bool
  | .wr8Data _ _ _ | .rr8Data _ _ => true
  | _ => false

/-- R73: bit 7 of the word is set for host operations, bit 5 for data accesses. -/
theorem encode_bits (i : Instr) :
    (encode i).1.getLsbD 7 = isHostOp i ∧ (encode i).1.getLsbD 5 = isDataAccess i := by
  cases i with
  | rr2A | rr2B | rr3A | rr3B | tick => decide
  | _ => exact opWord_bits _ _ _ _

/-- R71, R82: an operation that is no WR0 write keeps the pointer if it is a data access or a host operation, and else
zeroes it. -/
theorem runs_ptr {i : Instr} {s t : State} (h : Runs i s t) :
    (∃ c v, i = .wr0 c v) ∨ t.ptr = if isHostOp i || isDataAccess i then s.ptr else 0 := by
  cases h with
  | command c v => exact .inl ⟨c, v, rfl⟩
  | statusRead _ _ _ hi | unlistedWrite _ _ hi =>
    right
    cases i <;> simp [isStatusRead, isUnlistedWrite] at hi <;> rfl
  | acknowledge => right; simp [acknowledge_eq, isHostOp, isDataAccess]
  | noByte _ _ _ _ hi | pop _ _ _ _ hi =>
    right
    rcases hi with ⟨rfl, rfl⟩ | ⟨⟨p, rfl⟩, rfl⟩ <;> simp [isHostOp, isDataAccess]
  | tick => right; exact (tickDevice_rest s).1
  | frameDropped => right; rfl
  | _ => right; simp [isHostOp, isDataAccess]

/-- Settles O45: the class of the word by `encode_bits`, the pointer by `runs_ptr`. -/
theorem pointerIsConsumedByControlAccesses : Obligations.PointerIsConsumedByControlAccesses := by
  unfold Obligations.PointerIsConsumedByControlAccesses
  intro i s t h k
  obtain ⟨h7, h5⟩ := encode_bits i
  rw [show k.getLsbD 7 = _ from h7, show k.getLsbD 5 = _ from h5]
  rcases runs_ptr (exec_runs h) with ⟨c, v, rfl⟩ | hptr
  · exact ⟨fun _ _ hne => absurd rfl (hne c v), fun hbit => by simp [isHostOp, isDataAccess] at hbit⟩
  · rw [hptr]
    exact ⟨fun hhost hdata _ => by simp [hhost, hdata], fun hbit => if_pos (Bool.or_eq_true_iff.2 hbit)⟩

end Sys2Proof.Machine
end

section
/-! R236, R237, R243: what sets and what clears a pending bit. -/

namespace Sys2Proof.Machine

/-! ### Setting (R236) -/

/-- R241: an acknowledge sets no bit. -/
theorem ackClear_mask : ∀ p m : BitVec Config.pendWidth, p &&& m = 0 → ackClear false p &&& m = 0 := by decide

/-- R236: the cause a DCD change sets, seen through a mask of one cause. -/
theorem dcdBits_ext {c d : Chan} {wr15 : Byte}
    (h : (if dcdEnabled wr15 = true then extBit d else 0) &&& extBit c ≠ 0) : d = c ∧ wr15.getLsbD 3 = true := by
  split at h
  · next he =>
    refine ⟨?_, he⟩
    revert h; cases c <;> cases d <;> decide
  · simp at h

theorem dcdBits_rx (c d : Chan) (wr15 : Byte) : (if dcdEnabled wr15 = true then extBit d else 0) &&& rxBit c = 0 := by
  split
  · cases c <;> cases d <;> decide
  · simp

/-- R40: a pop that is not of an inner byte is of the last one. -/
theorem pop_last_iff {k : Channel} (h : k.unread ≠ 0) : ¬ k.rdPtr + 1 < k.act.len ↔ k.unread = 1 := by
  rw [pop_inner_iff h]; omega

/-- R236: a bit of channel `c` that an operation sets was set by a pop, a tick or a DCD change, with the bits of that
change under the mask. -/
theorem runs_sets {i : Instr} {s t : State} (h : Runs i s t) (c : Chan) {m : BitVec Config.pendWidth}
    (hm : extBit c.other &&& m = 0 ∧ rxBit c.other &&& m = 0) (h0 : s.pending &&& m = 0) (h1 : t.pending &&& m ≠ 0) :
    (∃ d, (i = .rr8Ctl d ∨ ∃ p, i = .rr8Data d p) ∧ (s.ch d).unread ≠ 0 ∧ popBits d (s.ch d) &&& m ≠ 0) ∨
    (i = .tick ∧ tickBits c (s.ch c) &&& m ≠ 0) ∨
    (∃ d a, i = .setDcd d a ∧ a ≠ (s.ch d).dcd ∧
      (if dcdEnabled (s.ch d).wr15 = true then extBit d else 0) &&& m ≠ 0) := by
  rcases runs_pending h with hp | ⟨-, -, -, -, hp, -⟩ | ⟨-, hp⟩ | ⟨d, hi, hu, hp⟩ | ⟨hi, hp⟩ | ⟨d, a, hi, ha, hp⟩ <;>
    rw [hp] at h1
  · exact absurd h0 h1
  · exact absurd (BitVec.zero_and) h1
  · exact absurd (ackClear_mask _ _ h0) h1
  · rw [or_and_eq _ _ _ h0] at h1; exact .inl ⟨d, hi, hu, h1⟩
  · rw [tick_pending_mask s c m h0 hm.1 hm.2] at h1; exact .inr (.inl ⟨hi, h1⟩)
  · rw [or_and_eq _ _ _ h0] at h1; exact .inr (.inr ⟨d, a, hi, ha, h1⟩)

/-- Settles O47: `runs_txBit` for the transmit causes; `runs_sets` with the conditions of each change for EXT and RX. -/
theorem pendingBitsAreSetOnlyWhereListed : Obligations.PendingBitsAreSetOnlyWhereListed := by
  unfold Obligations.PendingBitsAreSetOnlyWhereListed
  intro i s t h
  have hr := exec_runs h
  refine ⟨fun c => runs_txBit hr c, fun c h0 h1 => ?_, fun c h0 h1 => ?_⟩
  · have hm : extBit c.other &&& extBit c = 0 ∧ rxBit c.other &&& extBit c = 0 := by cases c <;> decide
    rcases runs_sets hr c hm h0 h1 with ⟨d, hi, hu, hb⟩ | ⟨hi, hb⟩ | ⟨d, a, hi, ha, hb⟩
    · obtain ⟨rfl, hlast, hbrk⟩ := popBits_ext hb
      exact .inr (.inl ⟨hi, (pop_last_iff hu).1 hlast, hbrk⟩)
    · exact .inr (.inr ⟨hi, tickBits_ext hb⟩)
    · obtain ⟨rfl, hie⟩ := dcdBits_ext hb
      exact .inl ⟨a, hi, ha, hie⟩
  · have hm : extBit c.other &&& rxBit c = 0 ∧ rxBit c.other &&& rxBit c = 0 := by cases c <;> decide
    rcases runs_sets hr c hm h0 h1 with ⟨d, hi, hu, hb⟩ | ⟨hi, hb⟩ | ⟨d, a, -, -, hb⟩
    · obtain ⟨rfl, hinner, hall⟩ := popBits_rx hb
      exact .inl ⟨hi, (pop_inner_iff hu).1 hinner, (allChars_iff _).1 hall⟩
    · rcases tickBits_rx hb with ⟨hcd, hmatch, hmode⟩ | ⟨heof, hmode⟩
      · exact .inr (.inl ⟨hi, hcd, hmatch, (firstOrAll_iff _).1 hmode⟩)
      · exact .inr (.inr ⟨hi, heof, (specialCond_iff _).1 hmode⟩)
    · exact absurd (dcdBits_rx c d _) hb

/-! ### Clearing (R237) -/

/-- Joining bits clears none. -/
theorem and_not_or_self (p b : BitVec Config.pendWidth) : p &&& ~~~(p ||| b) = 0 := by
  revert p b; decide

/-- R237: an operation that clears a bit is the WR0 clear or the vector read. -/
theorem runs_clears {i : Instr} {s t : State} (h : Runs i s t) (hc : s.pending &&& ~~~t.pending ≠ 0) :
    (∃ c v, i = .wr0 c v ∧ wr0Cmd v = 0b010) ∨ i = .rr2B := by
  rcases runs_pending h with hp | ⟨c, v, hi, hv, -⟩ | ⟨hi, -⟩ | ⟨d, -, -, hp⟩ | ⟨-, hp⟩ | ⟨d, a, -, -, hp⟩
  · rw [hp] at hc; simp at hc
  · exact .inl ⟨c, v, hi, hv⟩
  · exact .inr hi
  · rw [hp] at hc; exact absurd (and_not_or_self _ _) hc
  · rw [hp, BitVec.or_assoc] at hc; exact absurd (and_not_or_self _ _) hc
  · rw [hp] at hc; exact absurd (and_not_or_self _ _) hc

/-- R237, R238: the one bit an acknowledge clears. -/
theorem ackClear_cleared : ∀ p : BitVec Config.pendWidth, p &&& ~~~(ackClear false p) =
    if p.getLsbD 0 then 0b000001 else if p.getLsbD 3 then 0b001000 else if p.getLsbD 5 then 0b100000
      else if p.getLsbD 2 then 0b000100 else 0 := by decide

/-- Settles O48: the two clearers by `runs_clears`, then what each clears. -/
theorem pendingBitsAreClearedOnlyByClearOrAcknowledge :
    Obligations.PendingBitsAreClearedOnlyByClearOrAcknowledge := by
  unfold Obligations.PendingBitsAreClearedOnlyByClearOrAcknowledge
  refine ⟨fun i s t h hc => ?_, fun c v s t hv h => ?_, fun s t h => ?_⟩
  · refine (runs_clears (exec_runs h) hc).imp_left ?_
    rintro ⟨c, v, hi, hv⟩
    obtain ⟨-, hclear, -⟩ := wr0_fields v
    exact ⟨c, v, hi, hclear.1 hv⟩
  · obtain ⟨hpending, hshadow⟩ := commanded_pending s v
    rw [exec, execWr0_eq] at h
    cases h
    rw [effect_pending, effect_pendingShadow, hpending, hshadow, if_pos hv, if_pos hv]
    exact ⟨BitVec.or_zero, rfl⟩
  · rw [(exec_rr2B_facts h).1]
    exact ackClear_cleared s.pending

end Sys2Proof.Machine
end

section
/-! R43, R196, R234: the events of an operation, and the transmit path's silence. -/

namespace Sys2Proof.Machine

/-- R142: the events of a pop. -/
theorem popEvents_mem {k : Channel} {e : Event} (h : e ∈ popEvents k) :
    e = .assertInterrupt ∧ wr1Gate k.wr1 = true := by
  unfold popEvents at h
  split_ifs at h
  · exact gateEvents_mem h
  · cases h
  · exact gateEvents_mem h
  · cases h

/-- R101: the events of a WR0 byte. -/
theorem commandEvents_mem {c : Chan} {k : Channel} {v : Byte} {e : Event} (h : e ∈ commandEvents c k v) :
    e = .sendFrame k.txBuf c := by
  unfold commandEvents at h
  split at h
  · exact flushEvents_mem h
  · cases h

/-- R43, R234: the operations that an event can come from, and for an assertion the open gate. -/
def Event.ComesFrom (i : Instr) (s : State) : Event → Prop
  | .assertInterrupt => (∃ c, wr1Gate (s.ch c).wr1 = true) ∧ (i = .tick ∨ i = .rr2B ∨ ∃ c, i = .rr8Ctl c ∨
      (∃ p, i = .rr8Data c p) ∨ (∃ v, i = .wr15 c v) ∨ ∃ a, i = .setDcd c a)
  | .sendFrame _ c => i = .tick ∨ ∃ v, i = .wr0 c v
  | .rxDropped c => ∃ bytes n d, i = .rxFrame c bytes n d

/-- An assertion made with the gate of channel `c` open. -/
theorem comesFrom_gate {i : Instr} {s : State} {e : Event} (c : Chan)
    (h : e = .assertInterrupt ∧ wr1Gate (s.ch c).wr1 = true)
    (hi : i = .tick ∨ i = .rr2B ∨ ∃ c, i = .rr8Ctl c ∨ (∃ p, i = .rr8Data c p) ∨ (∃ v, i = .wr15 c v) ∨
      ∃ a, i = .setDcd c a) : e.ComesFrom i s := by
  obtain ⟨rfl, hg⟩ := h
  exact ⟨⟨c, hg⟩, hi⟩

/-- The events of a conditional raise are those of the raise. -/
theorem ite_gateEvents_mem {p : Prop} [Decidable p] {wr1 : Byte} {e : Event}
    (h : e ∈ if p then gateEvents wr1 else []) : e = .assertInterrupt ∧ wr1Gate wr1 = true := by
  split at h
  · exact gateEvents_mem h
  · cases h

/-- R211: an event of a channel's tick. -/
theorem comesFrom_tick {s : State} {c : Chan} {e : Event} (h : e ∈ tickEvents c (s.ch c)) : e.ComesFrom .tick s := by
  rcases tickEvents_mem h with h | ⟨b, rfl⟩
  · exact comesFrom_gate c h (.inl rfl)
  · exact .inl rfl

/-- R43: an operation only appends events, each one of its own. -/
theorem runs_events {i : Instr} {s t : State} (h : Runs i s t) :
    ∃ es, t.trace = s.trace ++ es ∧ ∀ e ∈ es, e.ComesFrom i s := by
  cases h with
  | command c v =>
    refine ⟨_, effect_trace _ _ _ _ _, fun e he => ?_⟩
    rw [commandEvents_mem he]; exact .inr ⟨v, rfl⟩
  | externalEnables c v =>
    exact ⟨_, effect_trace _ _ _ _ _, fun e he =>
      comesFrom_gate c (ite_gateEvents_mem he) (.inr (.inr ⟨c, .inr (.inr (.inl ⟨v, rfl⟩))⟩))⟩
  | acknowledge =>
    rw [acknowledge_eq]
    refine ⟨_, rfl, fun e he => ?_⟩
    rcases List.mem_append.1 he with he | he
    · exact comesFrom_gate .A (ite_gateEvents_mem he) (.inr (.inl rfl))
    · exact comesFrom_gate .B (ite_gateEvents_mem he) (.inr (.inl rfl))
  | pop _ c _ s' hi =>
    refine ⟨popEvents (s.ch c), by simp [readBase_facts hi], fun e he => comesFrom_gate c (popEvents_mem he) ?_⟩
    exact .inr (.inr ⟨c, (hi.imp And.left And.left).imp_right .inl⟩)
  | tick =>
    refine ⟨_, tickDevice_trace s, fun e he => ?_⟩
    rcases List.mem_append.1 he with he | he
    · exact comesFrom_tick he
    · exact comesFrom_tick he
  | newDcd c a =>
    exact ⟨_, effect_trace _ _ _ _ _, fun e he =>
      comesFrom_gate c (ite_gateEvents_mem he) (.inr (.inr ⟨c, .inr (.inr (.inr ⟨a, rfl⟩))⟩))⟩
  | frameDropped c bytes n d =>
    refine ⟨[.rxDropped c], rfl, fun e he => ?_⟩
    rw [List.mem_singleton.1 he]; exact ⟨bytes, n, d, rfl⟩
  | noByte _ _ _ _ hi => exact ⟨[], by simp [readBase_facts hi], fun e he => by cases he⟩
  | _ => exact ⟨[], by simp, fun e he => by cases he⟩

/-- Settles O51: `runs_events`, kind by kind. -/
theorem eventsComeOnlyFromTheirOperations : Obligations.EventsComeOnlyFromTheirOperations := by
  unfold Obligations.EventsComeOnlyFromTheirOperations
  intro i s t h
  obtain ⟨es, htr, hes⟩ := runs_events (exec_runs h)
  refine ⟨es, htr, fun bytes c he => hes _ he, fun c he => hes _ he, fun he => ?_⟩
  obtain ⟨⟨c, hgate⟩, hi⟩ := hes _ he
  refine ⟨?_, hi⟩
  cases c
  · exact .inl hgate
  · exact .inr hgate

/-! ### The transmit path (R196) -/

/-- R243: the transmit causes are bits 1 and 4. -/
theorem txBit_clear_iff : ∀ p : BitVec Config.pendWidth,
    (p &&& txBit .B = 0 ↔ p.getLsbD 1 = false) ∧ (p &&& txBit .A = 0 ↔ p.getLsbD 4 = false) := by decide

/-- Settles O52: data writes, WR0 writes and transmit steps by their effects, the rest by `runs_txBit` and RR0. -/
theorem transmitPathRaisesNoInterrupt : Obligations.TransmitPathRaisesNoInterrupt := by
  unfold Obligations.TransmitPathRaisesNoInterrupt
  refine ⟨fun c p v s t h => (dataWrite_facts h).2, fun c v s => ?_, fun c s => ?_, fun i s t h => ?_, fun c s => ?_⟩
  · refine ⟨_, execWr0_eq c v s, ?_, _, effect_trace _ _ _ _ _, fun he => ?_⟩
    · rw [effect_pending, BitVec.or_zero]; exact (commanded_pending s v).1
    · cases commandEvents_mem he
  · rw [txTickStep_eq, effect_events]
    refine ⟨setCh_pending _ _ _, _, setCh_trace _ _ _, fun he => ?_⟩
    obtain ⟨b, hb⟩ := txTickEvents_mem he
    cases hb
  · have hB := runs_txBit (exec_runs h) .B
    have hA := runs_txBit (exec_runs h) .A
    simp only [(txBit_clear_iff _).1] at hB
    simp only [(txBit_clear_iff _).2] at hA
    exact ⟨hB, hA⟩
  · obtain ⟨t, ht, hr⟩ := rr0_returns c s
    obtain ⟨-, -, hbit, -⟩ := rr0Value_bits (s.ch c)
    exact ⟨t, _, ht, hr, hbit⟩

end Sys2Proof.Machine
end
